-- ==== Sys2Proof/Word.lean ====
section
/-! DEFINITION. The widths of the machine's data (R7, R9, R10, R71): bytes, 16-bit words, 12-bit address operands,
register indices, row counts and key codes. -/

namespace Sys2Proof

/-- `u8` of R10: a general register, a timer, a byte of memory, an immediate `kk`. -/
abbrev Byte := BitVec 8

/-- `u16` of R10: `I`, `PC`, a stack entry, an instruction word. -/
abbrev Word := BitVec 16

/-- The 12-bit address operand `nnn` (R71). -/
abbrev Addr12 := BitVec 12

/-- The register index of an `x` or `y` operand field (R21, R71); every value names a register (R130). -/
abbrev RegIdx := Fin 16

/-- The count `n` of `Drw` (R71, R73). -/
abbrev RowCount := Fin 16

/-- A key code, `0x0` to `0xF` (R40). -/
abbrev Key := Fin 16

end Sys2Proof
end

