-- ==== Sys2Proof/Syntax.lean ====
section
/-! DEFINITION. The decoded instruction record (R74): one constructor for each of the 35 rows of opcode_table.json,
each carrying exactly the operands its encoding defines. -/

namespace Sys2Proof

/-- The 35 variants of R74, in the order of R80. -/
inductive Instr where
  | cls
  | ret
  | sys (nnn : Addr12)
  | jp (nnn : Addr12)
  | call (nnn : Addr12)
  | seImm (x : RegIdx) (kk : Byte)
  | sneImm (x : RegIdx) (kk : Byte)
  | seReg (x y : RegIdx)
  | ldImm (x : RegIdx) (kk : Byte)
  | addImm (x : RegIdx) (kk : Byte)
  | ldReg (x y : RegIdx)
  | or (x y : RegIdx)
  | and (x y : RegIdx)
  | xor (x y : RegIdx)
  | addReg (x y : RegIdx)
  | sub (x y : RegIdx)
  /-- `y` is carried but not read (R140), so that decoding loses no bit. -/
  | shr (x y : RegIdx)
  | subn (x y : RegIdx)
  /-- `y` is carried but not read (R142), so that decoding loses no bit. -/
  | shl (x y : RegIdx)
  | sneReg (x y : RegIdx)
  | ldI (nnn : Addr12)
  | jpV0 (nnn : Addr12)
  | rnd (x : RegIdx) (kk : Byte)
  | drw (x y : RegIdx) (n : RowCount)
  | skp (x : RegIdx)
  | sknp (x : RegIdx)
  | ldVxDt (x : RegIdx)
  | ldK (x : RegIdx)
  | ldDtVx (x : RegIdx)
  | ldStVx (x : RegIdx)
  | addI (x : RegIdx)
  | ldF (x : RegIdx)
  | ldB (x : RegIdx)
  | storeRegs (x : RegIdx)
  | readRegs (x : RegIdx)
  deriving DecidableEq, Repr

end Sys2Proof
end

