-- ==== Sys2Proof/Decode.lean ====
section
/-! DEFINITION. The decoder (R71, R75 to R81) from the two bytes of an instruction in memory order, total and rejecting
by name, and after it the encoder, written from the patterns of R80. -/

namespace Sys2Proof

/-- The decoder's verdict on a word that matches no family (R75, R81); it names the word (R210). -/
inductive DecodeFailure where
  /-- `5xyn` or `9xyn` with `n` not 0 (R77). -/
  | skipFamily (w : Word)
  /-- `8xyn` with `n` in 8, 9, A, B, C, D, F (R78). -/
  | aluFamily (w : Word)
  /-- `Exkk` with `kk` not 9E or A1 (R79). -/
  | keyFamily (w : Word)
  /-- `Fxkk` with `kk` none of the nine low bytes of R79. -/
  | miscFamily (w : Word)
  deriving DecidableEq, Repr

/-- The word that failed (R210: `DecodeError` records the word `w`). -/
def DecodeFailure.word : DecodeFailure → Word
  | .skipFamily w => w
  | .aluFamily w => w
  | .keyFamily w => w
  | .miscFamily w => w

/-- `op = w[15:12]` (R71). -/
def fieldOp (w : Word) : Fin 16 := Fin.ofNat 16 (w.toNat / 0x1000)

/-- `x = w[11:8]` (R71). -/
def fieldX (w : Word) : RegIdx := Fin.ofNat 16 (w.toNat / 0x100)

/-- `y = w[7:4]` (R71). -/
def fieldY (w : Word) : RegIdx := Fin.ofNat 16 (w.toNat / 0x10)

/-- `n = w[3:0]` (R71). -/
def fieldN (w : Word) : Fin 16 := Fin.ofNat 16 w.toNat

/-- `kk = w[7:0]` (R71). -/
def fieldKK (w : Word) : Byte := BitVec.ofNat 8 w.toNat

/-- `nnn = w[11:0]` (R71). -/
def fieldNNN (w : Word) : Addr12 := BitVec.ofNat 12 w.toNat

/-- R76: the whole word is compared, so the two exact words take precedence over the `Sys` pattern. -/
def decodeZero (w : Word) : Instr :=
  if w = 0x00E0#16 then .cls
  else if w = 0x00EE#16 then .ret
  else .sys (fieldNNN w)

/-- R78: the `8` family splits by `n`. -/
def decodeAlu (w : Word) : Except DecodeFailure Instr :=
  match (fieldN w).val with
  | 0x0 => .ok (.ldReg (fieldX w) (fieldY w))
  | 0x1 => .ok (.or (fieldX w) (fieldY w))
  | 0x2 => .ok (.and (fieldX w) (fieldY w))
  | 0x3 => .ok (.xor (fieldX w) (fieldY w))
  | 0x4 => .ok (.addReg (fieldX w) (fieldY w))
  | 0x5 => .ok (.sub (fieldX w) (fieldY w))
  | 0x6 => .ok (.shr (fieldX w) (fieldY w))
  | 0x7 => .ok (.subn (fieldX w) (fieldY w))
  | 0xE => .ok (.shl (fieldX w) (fieldY w))
  | _ => .error (.aluFamily w)

/-- R79: the `E` family splits by the low byte. -/
def decodeKey (w : Word) : Except DecodeFailure Instr :=
  match (fieldKK w).toNat with
  | 0x9E => .ok (.skp (fieldX w))
  | 0xA1 => .ok (.sknp (fieldX w))
  | _ => .error (.keyFamily w)

/-- R79: the `F` family splits by the low byte. -/
def decodeMisc (w : Word) : Except DecodeFailure Instr :=
  match (fieldKK w).toNat with
  | 0x07 => .ok (.ldVxDt (fieldX w))
  | 0x0A => .ok (.ldK (fieldX w))
  | 0x15 => .ok (.ldDtVx (fieldX w))
  | 0x18 => .ok (.ldStVx (fieldX w))
  | 0x1E => .ok (.addI (fieldX w))
  | 0x29 => .ok (.ldF (fieldX w))
  | 0x33 => .ok (.ldB (fieldX w))
  | 0x55 => .ok (.storeRegs (fieldX w))
  | 0x65 => .ok (.readRegs (fieldX w))
  | _ => .error (.miscFamily w)

/-- `decode` of R75: `op` first, then the sub-opcode fields. `op` is below 16, so the last arm is the `F` family. -/
def decode (w : Word) : Except DecodeFailure Instr :=
  match (fieldOp w).val with
  | 0x0 => .ok (decodeZero w)
  | 0x1 => .ok (.jp (fieldNNN w))
  | 0x2 => .ok (.call (fieldNNN w))
  | 0x3 => .ok (.seImm (fieldX w) (fieldKK w))
  | 0x4 => .ok (.sneImm (fieldX w) (fieldKK w))
  | 0x5 => if fieldN w = 0 then .ok (.seReg (fieldX w) (fieldY w)) else .error (.skipFamily w)
  | 0x6 => .ok (.ldImm (fieldX w) (fieldKK w))
  | 0x7 => .ok (.addImm (fieldX w) (fieldKK w))
  | 0x8 => decodeAlu w
  | 0x9 => if fieldN w = 0 then .ok (.sneReg (fieldX w) (fieldY w)) else .error (.skipFamily w)
  | 0xA => .ok (.ldI (fieldNNN w))
  | 0xB => .ok (.jpV0 (fieldNNN w))
  | 0xC => .ok (.rnd (fieldX w) (fieldKK w))
  | 0xD => .ok (.drw (fieldX w) (fieldY w) (fieldN w))
  | 0xE => decodeKey w
  | _ => decodeMisc w

/-- The word of two bytes in memory order, most significant byte first (R52). -/
def wordOfBytes (hi lo : Byte) : Word := BitVec.ofNat 16 (hi.toNat * 0x100 + lo.toNat)

/-- The byte of a word that stands at the lower address (R52). -/
def highByte (w : Word) : Byte := BitVec.ofNat 8 (w.toNat / 0x100)

/-- The byte of a word that stands at the higher address (R52). -/
def lowByte (w : Word) : Byte := BitVec.ofNat 8 w.toNat

/-- The decoder on an instruction's two bytes in memory order (R52, R75). -/
def decodeBytes (hi lo : Byte) : Except DecodeFailure Instr := decode (wordOfBytes hi lo)

/-- The word of an opcode-table row's `nbits` low bits, every higher bit 0 (R70: one word is the whole instruction). -/
def tableWord (nbits w : Nat) : Word := BitVec.ofNat 16 (w % 2 ^ nbits)

/-- What the decoder reads from an instruction whose bits the opcode table numbers as `w`: the word is laid out in
memory order and decoded. -/
def decodeTableWord (nbits w : Nat) : Option Instr :=
  (decodeBytes (highByte (tableWord nbits w)) (lowByte (tableWord nbits w))).toOption

/-- Format `NNN` of R72: `op:4 nnn:12`. -/
def encodeNNN (op : Nat) (nnn : Addr12) : Word := BitVec.ofNat 16 (op * 0x1000 + nnn.toNat)

/-- Formats `XKK` and `X` of R72: `op:4 x:4 kk:8`. -/
def encodeXKK (op : Nat) (x : RegIdx) (kk : Byte) : Word := BitVec.ofNat 16 (op * 0x1000 + x.val * 0x100 + kk.toNat)

/-- Formats `XY` and `XYN` of R72: `op:4 x:4 y:4 n:4`. -/
def encodeXYN (op : Nat) (x y : RegIdx) (n : Fin 16) : Word :=
  BitVec.ofNat 16 (op * 0x1000 + x.val * 0x100 + y.val * 0x10 + n.val)

/-- The word of an instruction, by its pattern in R80. -/
def encode : Instr → Word
  | .cls => 0x00E0#16
  | .ret => 0x00EE#16
  | .sys nnn => encodeNNN 0x0 nnn
  | .jp nnn => encodeNNN 0x1 nnn
  | .call nnn => encodeNNN 0x2 nnn
  | .seImm x kk => encodeXKK 0x3 x kk
  | .sneImm x kk => encodeXKK 0x4 x kk
  | .seReg x y => encodeXYN 0x5 x y 0x0
  | .ldImm x kk => encodeXKK 0x6 x kk
  | .addImm x kk => encodeXKK 0x7 x kk
  | .ldReg x y => encodeXYN 0x8 x y 0x0
  | .or x y => encodeXYN 0x8 x y 0x1
  | .and x y => encodeXYN 0x8 x y 0x2
  | .xor x y => encodeXYN 0x8 x y 0x3
  | .addReg x y => encodeXYN 0x8 x y 0x4
  | .sub x y => encodeXYN 0x8 x y 0x5
  | .shr x y => encodeXYN 0x8 x y 0x6
  | .subn x y => encodeXYN 0x8 x y 0x7
  | .shl x y => encodeXYN 0x8 x y 0xE
  | .sneReg x y => encodeXYN 0x9 x y 0x0
  | .ldI nnn => encodeNNN 0xA nnn
  | .jpV0 nnn => encodeNNN 0xB nnn
  | .rnd x kk => encodeXKK 0xC x kk
  | .drw x y n => encodeXYN 0xD x y n
  | .skp x => encodeXKK 0xE x 0x9E#8
  | .sknp x => encodeXKK 0xE x 0xA1#8
  | .ldVxDt x => encodeXKK 0xF x 0x07#8
  | .ldK x => encodeXKK 0xF x 0x0A#8
  | .ldDtVx x => encodeXKK 0xF x 0x15#8
  | .ldStVx x => encodeXKK 0xF x 0x18#8
  | .addI x => encodeXKK 0xF x 0x1E#8
  | .ldF x => encodeXKK 0xF x 0x29#8
  | .ldB x => encodeXKK 0xF x 0x33#8
  | .storeRegs x => encodeXKK 0xF x 0x55#8
  | .readRegs x => encodeXKK 0xF x 0x65#8

end Sys2Proof
end

