-- ==== Sys2Proof/Config.lean ====
section
/-! DEFINITION. What is fixed for the machine (the geometry of R7 that types or the reset state rest on), the inputs
that cross the core's boundary (R14, R40 to R42), and the one free value: what the host does when State's list of its
turns has run out. The font's place and stride (R7) stand in Machine/Operands.lean. -/

namespace Sys2Proof

/-- `MEM_SIZE` of R7 (D29). -/
@[simp] abbrev Config.memSize : Nat := 4096

/-- `PROGRAM_START` of R7. -/
@[simp] abbrev Config.programStart : Word := 0x200#16

/-- `STACK_CAP` of R7. -/
@[simp] abbrev Config.stackCap : Nat := 16

/-- `DISPLAY_W` of R7 (D29). -/
@[simp] abbrev Config.displayW : Nat := 64

/-- `DISPLAY_H` of R7 (D29). -/
@[simp] abbrev Config.displayH : Nat := 32

/-- `NKEYS` of R7 (D16). -/
@[simp] abbrev Config.numKeys : Nat := 16

/-- The inputs of one step (R14): `KEYDOWN` for the sixteen keys (R40), `NEWKEY` (R41) and `RANDOM` (R42). -/
structure Inputs where
  keysDown : Vector Bool Config.numKeys
  newKey   : Option Key
  random   : Byte
  deriving DecidableEq, Repr, Inhabited

/-- What the host does up to and including its next call of `step` (R222, R223): it calls `tick` this many times and
then calls `step` with these inputs. DESIGN CHOICE, safe: log 2. -/
structure Turn where
  ticks  : Nat
  inputs : Inputs
  deriving DecidableEq, Repr, Inhabited

/-- The host's turn number `n` where State's list of turns has run out: a free value, so any number of ticks and any
inputs (R40 to R42, R222; 93_implementation_defined.md ID5, ID6, ID9). DESIGN CHOICE, safe: log 2. -/
opaque Config.freeTurn : Nat → Turn

end Sys2Proof
end

