-- ==== Sys2Proof/Machine/State.lean ====
section
/-! DEFINITION. The machine state (R20) as plain data, the five errors (R210), the side-effect record (R44), the reasons
a step stops, and the state after reset (R34, R240). -/

namespace Sys2Proof.Machine

/-- The five errors of R210, each with the value it records. `raise` (Machine/Ops.lean) writes one into `FAULT`. -/
inductive Error where
  /-- The fetched word matches no family; it records the word. -/
  | decodeError (w : Word)
  /-- `Call` with `SP = 16`. -/
  | stackOverflow
  /-- `Ret` with `SP = 0`. -/
  | stackUnderflow
  /-- `Sys`, always; it records the decoded instruction. -/
  | unsupportedInstruction (i : Instr)
  /-- An access set that leaves memory; it records the lowest address outside. -/
  | memoryOutOfBounds (a : Nat)
  deriving DecidableEq, Repr

/-- The side-effect record of a successful `apply` (R44). -/
structure SideEffects where
  displayChanged : Bool
  waitingForKey  : Bool
  deriving DecidableEq, Repr

/-- Memory as a list of (address, byte) pairs; the canonical form is `Memory.wf` (Machine/Ops.lean). -/
abbrev Memory := List Host.Cell

/-- `DISP[c][r]` (R29): columns from the left, and in a column the rows from the top; `true` is a lit pixel. -/
abbrev Display := Vector (Vector Bool Config.displayH) Config.displayW

/-- Why a step does not go on. -/
inductive Fault where
  /-- Raised by `step` and `tick` when `FAULT` holds an error: no step and no tick is enabled (R31, R213, R215).
  Safe: the machine stops where a host might have skipped a bad word and gone on (R211, log 1, log 10). -/
  | stopped (e : Error)
  deriving DecidableEq, Repr

/-- Why an instruction has no meaning here. -/
inductive Refusal where
  /-- Raised by an arm of `exec` whose instruction has no meaning yet; no arm of this model raises it. Safe. -/
  | notModelled (mnemonic : String)
  deriving DecidableEq, Repr

/-- The state record of R20; then the record the host reads (R43, R44); then the model's own fields, which stand for the
inputs of the steps (R14) and the host's interleaving of `tick` and `step` (R222). -/
structure State where
  /-- `V[0x0..0xF]` (R21); `V[0xF]` is also the flag register (R22). -/
  v         : Vector Byte 16
  /-- `I`, the address register (R24). -/
  i         : Word
  /-- `DT`, the delay timer (R25). -/
  dt        : Byte
  /-- `ST`, the sound timer (R26). -/
  st        : Byte
  /-- `PC` (R27). -/
  pc        : Word
  /-- `SP`, the number of live stack entries, in `[0, 16]` (R28). -/
  sp        : Fin (Config.stackCap + 1)
  /-- `STACK[0..15]` (R28). -/
  stack     : Vector Word Config.stackCap
  /-- `MEM` (R32, R50). -/
  mem       : Memory
  /-- `DISP` (R29). -/
  disp      : Display
  /-- `AWAIT`, the awaiting-key latch (R30). -/
  await     : Bool
  /-- `FAULT` (R31). -/
  fault     : Option Error
  /-- The record the last `apply` returned, none when none has returned one or the last raised an error (R43, R44).
  DESIGN CHOICE: log 5. -/
  effects   : Option SideEffects
  /-- The inputs of the step being taken (R14), the model's own field. DESIGN CHOICE: log 3. -/
  inputs    : Inputs
  /-- What the host does next, oldest first (R222), the model's own field. DESIGN CHOICE: log 2. -/
  turns     : List Turn
  /-- How many steps have begun, the argument of the free turn, the model's own field. DESIGN CHOICE: log 4. -/
  turnCount : Nat
  deriving DecidableEq, Repr

/-- Reset (R34, R240). Memory is the loader's (R241): nothing is listed (log 7). The model's own fields: log 2 to 5. -/
def State.reset : State where
  v         := Vector.replicate 16 0#8
  i         := 0#16
  dt        := 0#8
  st        := 0#8
  pc        := Config.programStart
  sp        := 0
  stack     := Vector.replicate Config.stackCap 0#16
  mem       := []
  disp      := Vector.replicate Config.displayW (Vector.replicate Config.displayH false)
  await     := false
  fault     := none
  effects   := none
  inputs    := { keysDown := Vector.replicate Config.numKeys false, newKey := none, random := 0#8 }
  turns     := []
  turnCount := 0

end Sys2Proof.Machine
end

