-- ==== Sys2Proof/Machine/Flags.lean ====
section
/-! DEFINITION. The flags `V[0xF]` receives (R22), each a function of the operands before any write (R131). -/

namespace Sys2Proof.Machine

/-- `set_flag(b)` writes 0 or 1 (R130). -/
def flagByte (b : Bool) : Byte := if b then 1#8 else 0#8

/-- Carry of `AddReg`: the exact sum exceeds 255 (R138). -/
def carryFlag (a b : Byte) : Bool := decide (255 < a.toNat + b.toNat)

/-- No-borrow of `a - b`: `a >= b` (R139, R141). -/
def noBorrowFlag (a b : Byte) : Bool := decide (b.toNat ≤ a.toNat)

/-- The bit `Shr` shifts out, `a & 1` (R140). -/
def lowBitFlag (a : Byte) : Bool := a.getLsbD 0

/-- The bit `Shl` shifts out, `(a >> 7) & 1` (R142). -/
def highBitFlag (a : Byte) : Bool := a.getLsbD 7

end Sys2Proof.Machine
end

