-- ==== Sys2Proof/Machine/Operands.lean ====
section
/-! DEFINITION. Narrowing and widening (R10), the effective results of the register and address arithmetic (R144), the
font's place (R7, R162) and the decimal digits (R163). -/

namespace Sys2Proof.Machine

/-- `trunc_8` of R10: the non-negative remainder modulo 256 of an exact integer. -/
def trunc8 (n : Int) : Byte := BitVec.ofInt 8 n

/-- `trunc_16` of R10: the non-negative remainder modulo 65536 of an exact integer. -/
def trunc16 (n : Int) : Word := BitVec.ofInt 16 n

/-- `zext_16` of R10 on an address operand (R73). -/
def zext16 (nnn : Addr12) : Word := BitVec.ofNat 16 nnn.toNat

/-- `trunc_8(a + b)` (R133, R138). -/
def addBytes (a b : Byte) : Byte := trunc8 ((a.toNat : Int) + b.toNat)

/-- `trunc_8(a - b)` (R139, R141). -/
def subBytes (a b : Byte) : Byte := trunc8 ((a.toNat : Int) - b.toNat)

/-- `a >> 1` (R140). -/
def halveByte (a : Byte) : Byte := trunc8 ((a.toNat / 2 : Nat) : Int)

/-- `trunc_8(a << 1)` (R142). -/
def doubleByte (a : Byte) : Byte := trunc8 ((a.toNat : Int) * 2)

/-- `trunc_16(w + b)` (R112, R161). -/
def addToWord (w : Word) (b : Byte) : Word := trunc16 ((w.toNat : Int) + b.toNat)

/-- The address one instruction width on, `trunc_16(pc + 2)` (R100, R103). -/
def nextAddr (pc : Word) : Word := trunc16 ((pc.toNat : Int) + 2)

/-- The address one instruction width back, `trunc_16(pc - 2)` (R193). -/
def prevAddr (pc : Word) : Word := trunc16 ((pc.toNat : Int) - 2)

/-- `FONT_BASE` of R7 (D18). -/
def fontBase : Nat := 0x000

/-- `FONT_STRIDE` of R7 (D18). -/
def fontStride : Nat := 5

/-- `trunc_16(FONT_BASE + FONT_STRIDE * b)`; the byte is not reduced to a digit (R162). -/
def glyphAddr (b : Byte) : Word := trunc16 ((fontBase : Int) + fontStride * b.toNat)

/-- The hundreds, tens and ones digits of a byte, in the order `LdB` stores them (R163). -/
def decimalDigits (b : Byte) : List Byte :=
  [trunc8 ((b.toNat / 100 : Nat) : Int), trunc8 ((b.toNat / 10 % 10 : Nat) : Int), trunc8 ((b.toNat % 10 : Nat) : Int)]

/-- `V[x] < 16 and KEYDOWN(V[x])` (R190, R191); a code of 16 or more names no key (R40, D16). -/
def keyIsDown (inp : Inputs) (code : Byte) : Bool :=
  if h : code.toNat < Config.numKeys then inp.keysDown[code.toNat] else false

/-- A key code as the byte `LdK` writes (R193). -/
def keyByte (k : Key) : Byte := BitVec.ofNat 8 k.val

end Sys2Proof.Machine
end

