-- ==== Sys2Proof/Machine/Ops.lean ====
section
/-! DEFINITION. The named operations every meaning is written with: memory (R12, R50 to R57), registers (R11, R130), the
program counter (R103), the call stack (R28), the display (R29), ending an instruction (R44) and raising an error (R13,
R213, R214). -/

namespace Sys2Proof.Machine

/-! ### Memory -/

/-- What an address reads as that memory does not list. DESIGN CHOICE, unsafe: log 7. -/
def unlistedByte : Byte := 0#8

/-- The canonical form from address `lo` on: addresses strictly rising and inside memory, no entry equal to what an
unlisted address reads as. -/
def Memory.wfFrom : Nat → Memory → Bool
  | _, [] => true
  | lo, (a, b) :: m => decide (lo ≤ a) && decide (a < Config.memSize) && b != unlistedByte && Memory.wfFrom (a + 1) m

/-- The canonical form of a memory, so that equal memories are equal data. -/
def Memory.wf (m : Memory) : Bool := Memory.wfFrom 0 m

/-- `MemRead(a, 1)` after its bounds check (R12). -/
def Memory.read : Memory → Nat → Byte
  | [], _ => unlistedByte
  | (b, x) :: m, a => if a = b then x else Memory.read m a

/-- Memory without any entry for an address. -/
def Memory.forget (m : Memory) (a : Nat) : Memory := m.filter fun c => c.1 != a

/-- An entry put in its place among the rising addresses. -/
def Memory.place : Memory → Nat → Byte → Memory
  | [], a, x => [(a, x)]
  | (b, y) :: m, a, x => if a < b then (a, x) :: (b, y) :: m else (b, y) :: Memory.place m a x

/-- `MemWrite(a, 1, v)` after its bounds check (R12), keeping the canonical form: the value an unlisted address reads as
is written by removing the entry. -/
def Memory.write (m : Memory) (a : Nat) (x : Byte) : Memory :=
  if x = unlistedByte then m.forget a else (m.forget a).place a x

/-- `n` single-byte reads at consecutive addresses from `base` (R53). -/
def Memory.readBytes (m : Memory) (base n : Nat) : List Byte := (List.range n).map fun k => m.read (base + k)

/-- Single-byte writes at consecutive addresses from `base`, ascending (R53, R164). -/
def Memory.writeBytes : Memory → Nat → List Byte → Memory
  | m, _, [] => m
  | m, base, b :: bs => Memory.writeBytes (m.write base b) (base + 1) bs

/-- `check_range` of R54: the address `MemoryOutOfBounds` records, or none when every byte is in bounds. Addresses are
unbounded integers (R55). -/
def checkRange (base count : Nat) : Option Nat :=
  if 0 < count ∧ Config.memSize ≤ base + count - 1 then some (max base Config.memSize) else none

/-! ### Registers and the program counter -/

/-- `V[r] <- b` (R11). -/
def State.setV (s : State) (r : RegIdx) (b : Byte) : State := { s with v := s.v.set r b }

/-- `set_flag(b)`: `V[0xF] <- b` (R130). -/
def State.setFlag (s : State) (b : Bool) : State := s.setV 0xF (flagByte b)

/-- The flag is written to `V[0xF]` first and the result to `V[x]` second (R131). -/
def State.setFlagThen (s : State) (flag : Bool) (x : RegIdx) (result : Byte) : State := (s.setFlag flag).setV x result

/-- `I <- w` (R24). -/
def State.setI (s : State) (w : Word) : State := { s with i := w }

/-- `DT <- b` (R25). -/
def State.setDT (s : State) (b : Byte) : State := { s with dt := b }

/-- `ST <- b` (R26). -/
def State.setST (s : State) (b : Byte) : State := { s with st := b }

/-- `PC <- w` (R27). -/
def State.setPC (s : State) (w : Word) : State := { s with pc := w }

/-- `AWAIT <- b` (R30). -/
def State.setAwait (s : State) (b : Bool) : State := { s with await := b }

/-- `MEM` after the stores of an instruction (R53). -/
def State.setMem (s : State) (m : Memory) : State := { s with mem := m }

/-- `DISP` after the drawing of an instruction (R29). -/
def State.setDisp (s : State) (d : Display) : State := { s with disp := d }

/-- The cycle's advance by one instruction width (R100). -/
def State.advance (s : State) : State := s.setPC (nextAddr s.pc)

/-- `skip_if` of R103. -/
def State.skipIf (s : State) (c : Bool) : State := s.setPC (if c then nextAddr s.pc else s.pc)

/-- The registers after `V[0]` to `V[x]` are loaded from memory at `base` (R165). -/
def loadedRegs (v : Vector Byte 16) (m : Memory) (base : Nat) (x : RegIdx) : Vector Byte 16 :=
  Vector.ofFn fun r : Fin 16 => if r ≤ x then m.read (base + r.val) else v[r]

/-- The bytes `V[0]` to `V[x]`, in that order (R164). -/
def storedRegs (v : Vector Byte 16) (x : RegIdx) : List Byte := v.toList.take (x.val + 1)

/-- The registers after `ReadRegs` (R165). -/
def State.setVs (s : State) (v : Vector Byte 16) : State := { s with v := v }

/-! ### The call stack -/

/-- A push stores at `STACK[SP]` and then increments `SP`; none when 16 entries are live (R28). -/
def State.push? (s : State) (w : Word) : Option State :=
  if h : s.sp.val < Config.stackCap then
    some { s with stack := s.stack.set s.sp.val w, sp := ⟨s.sp.val + 1, by omega⟩ }
  else none

/-- A pop decrements `SP` and then reads `STACK[SP]`, which keeps its value; none when no entry is live (R28, R105). -/
def State.pop? (s : State) : Option (Word × State) :=
  if h : 0 < s.sp.val then
    some (s.stack[s.sp.val - 1]'(by have := s.sp.isLt; omega), { s with sp := ⟨s.sp.val - 1, by omega⟩ })
  else none

/-! ### The display -/

/-- `DISP[c][r]` (R29). -/
def Display.pixel (d : Display) (c : Fin Config.displayW) (r : Fin Config.displayH) : Bool := d[c][r]

/-- Every cell off (R180). -/
def Display.clear : Display := Vector.replicate Config.displayW (Vector.replicate Config.displayH false)

/-- `DISP[c][r] <- not DISP[c][r]` (R181). -/
def Display.toggle (d : Display) (c : Fin Config.displayW) (r : Fin Config.displayH) : Display :=
  d.set c (d[c].set r (!d[c][r]))

/-- The display and the collision found so far, as `Drw` goes through the sprite (R181). -/
structure Canvas where
  disp      : Display
  collision : Bool
  deriving DecidableEq, Repr

/-- The column of a sprite's pixel `c`, with horizontal wraparound (R181). -/
def spriteCol (cx c : Nat) : Fin Config.displayW := Fin.ofNat Config.displayW (cx + c)

/-- One pixel of a sprite row: bit 7 is the leftmost (R181, D14); a 0 bit leaves its cell alone. -/
def drawPixel (b : Byte) (cx : Nat) (row : Fin Config.displayH) (p : Canvas) (c : Nat) : Canvas :=
  if b.getLsbD (7 - c) then
    { disp := p.disp.toggle (spriteCol cx c) row, collision := p.collision || p.disp.pixel (spriteCol cx c) row }
  else p

/-- The eight pixels of one sprite row, from the left (R181). -/
def drawRow (b : Byte) (cx : Nat) (row : Fin Config.displayH) (p : Canvas) : Canvas :=
  (List.range 8).foldl (drawPixel b cx row) p

/-- The rows of a sprite downwards from row `row`; a row past the bottom is clipped, not wrapped (R181, C7). -/
def drawSprite : List Byte → Nat → Nat → Canvas → Canvas
  | [], _, _, p => p
  | b :: bs, cx, row, p =>
    drawSprite bs cx (row + 1) (if h : row < Config.displayH then drawRow b cx ⟨row, h⟩ p else p)

/-! ### Ending an instruction -/

/-- A successful `apply` returns its side-effect record (R44). -/
def done (displayChanged : Bool) (s : State) : Host.Outcome State Fault Refusal :=
  .next { s with effects := some { displayChanged := displayChanged, waitingForKey := s.await } }

/-- The code of each error (R210, D22); no rule reads it. -/
def Error.code : Error → Nat
  | .decodeError _ => 0
  | .stackOverflow => 1
  | .stackUnderflow => 2
  | .unsupportedInstruction _ => 3
  | .memoryOutOfBounds _ => 4

/-- The state `raise E` leaves: `FAULT <- E`, nothing else written (R13, R213, R214), no side-effect record (R44). -/
def State.raised (s : State) (e : Error) : State := { s with fault := some e, effects := none }

/-- `raise E` (R13): entry into the faulted state (R213). The one operation by which any error is taken; there is no
return from it (R215). DEDUCED: the faulted state is a next state, log 1. -/
def raise (e : Error) (s : State) : Host.Outcome State Fault Refusal := .next (s.raised e)

/-- `check_range(base, count)` and then the rest of the instruction (R54); the check stands before any write (R214). -/
def withRange (base count : Nat) (s : State) (rest : Host.Outcome State Fault Refusal) :
    Host.Outcome State Fault Refusal :=
  match checkRange base count with
  | some a => raise (.memoryOutOfBounds a) s
  | none => rest

/-! ### Boot -/

/-- The boot state (R241): reset, then the loader's image, the whole initial `MEM`. -/
def State.boot (image : Memory) : State := State.reset.setMem image

end Sys2Proof.Machine
end

