-- ==== Sys2Proof/Machine/Cycle.lean ====
section
/-! DEFINITION. What the step does around `exec`: the timer tick (R222), the host's turn (R222, R223), the fetch (R52,
R100), and placing a word where the next fetch reads. -/

namespace Sys2Proof.Machine

/-- A timer after `n` ticks: it counts down and stops at 0 (R222). -/
def countdown (n : Nat) (b : Byte) : Byte := BitVec.ofNat 8 (b.toNat - n)

/-- Both timers after `n` ticks; a tick writes nothing else (R222). -/
def State.afterTicks (s : State) (n : Nat) : State := { s with dt := countdown n s.dt, st := countdown n s.st }

/-- `tick` of R222, enabled only while `FAULT` is none. -/
def tick (s : State) : Host.Outcome State Fault Refusal :=
  match s.fault with
  | some e => .fault (.stopped e)
  | none => .next (s.afterTicks 1)

/-- What the host does next: the oldest turn listed, or a free turn where none is (log 2). -/
def State.nextTurn (s : State) : Turn :=
  match s.turns with
  | t :: _ => t
  | [] => Config.freeTurn s.turnCount

/-- The state in which the fetch of the next step takes place: the host's ticks are made, the step's inputs stand in
`inputs`, and the turn is used up (R14, R222). -/
def State.beginTurn (s : State) : State :=
  { s.afterTicks s.nextTurn.ticks with
    inputs := s.nextTurn.inputs, turns := s.turns.tail, turnCount := s.turnCount + 1 }

/-- The word at `PC`, most significant byte first (R52). -/
def State.fetchWord (s : State) : Word := wordOfBytes (s.mem.read s.pc.toNat) (s.mem.read (s.pc.toNat + 1))

/-- The instruction at `PC`, or the error the cycle raises instead: the fetch's bounds first, then decoding (R100,
R212). -/
def State.fetch (s : State) : Except Error Instr :=
  match checkRange s.pc.toNat 2 with
  | some a => .error (.memoryOutOfBounds a)
  | none =>
    match decodeBytes (s.mem.read s.pc.toNat) (s.mem.read (s.pc.toNat + 1)) with
    | .error f => .error (.decodeError f.word)
    | .ok i => .ok i

/-- Memory with a word stored at an address, most significant byte first (R52); unchanged where it does not fit. -/
def Memory.storeWord (m : Memory) (a : Nat) (w : Word) : Memory :=
  match checkRange a 2 with
  | some _ => m
  | none => m.writeBytes a [highByte w, lowByte w]

/-- The host's turns with the next one made free of ticks, its inputs as they were (log 9). -/
def State.turnsWithoutTicks (s : State) : List Turn := { s.nextTurn with ticks := 0 } :: s.turns.tail

end Sys2Proof.Machine
end

