-- ==== Sys2Proof/Machine/Address.lean ====
section
/-! DEFINITION. The address register and the transfers between registers and memory (42_address_memory.md, R160 to
R165), and the usual glyphs a loader may place (R242). -/

namespace Sys2Proof.Machine

/-- R160. -/
def execLdI (nnn : Addr12) (s : State) : Host.Outcome State Fault Refusal :=
  done false (s.setI (zext16 nnn))

/-- R161: wraps at 16 bits, no flag (D12). -/
def execAddI (x : RegIdx) (s : State) : Host.Outcome State Fault Refusal :=
  done false (s.setI (addToWord s.i s.v[x]))

/-- R162. -/
def execLdF (x : RegIdx) (s : State) : Host.Outcome State Fault Refusal :=
  done false (s.setI (glyphAddr s.v[x]))

/-- R163. -/
def execLdB (x : RegIdx) (s : State) : Host.Outcome State Fault Refusal :=
  withRange s.i.toNat 3 s (done false (s.setMem (s.mem.writeBytes s.i.toNat (decimalDigits s.v[x]))))

/-- R164: `I` is left unmodified. -/
def execStoreRegs (x : RegIdx) (s : State) : Host.Outcome State Fault Refusal :=
  withRange s.i.toNat (x.val + 1) s (done false (s.setMem (s.mem.writeBytes s.i.toNat (storedRegs s.v x))))

/-- R165: `I` is left unmodified. -/
def execReadRegs (x : RegIdx) (s : State) : Host.Outcome State Fault Refusal :=
  withRange s.i.toNat (x.val + 1) s (done false (s.setVs (loadedRegs s.v s.mem s.i.toNat x)))

/-- The usual glyph bytes of R242, five to a digit, digits 0 to F. A launch premise, not part of reset: log 18. -/
def fontGlyphs : List Byte :=
  [0xF0, 0x90, 0x90, 0x90, 0xF0, 0x20, 0x60, 0x20, 0x20, 0x70, 0xF0, 0x10, 0xF0, 0x80, 0xF0, 0xF0, 0x10, 0xF0, 0x10, 0xF0] ++
  [0x90, 0x90, 0xF0, 0x10, 0x10, 0xF0, 0x80, 0xF0, 0x10, 0xF0, 0xF0, 0x80, 0xF0, 0x90, 0xF0, 0xF0, 0x10, 0x20, 0x40, 0x40] ++
  [0xF0, 0x90, 0xF0, 0x90, 0xF0, 0xF0, 0x90, 0xF0, 0x10, 0xF0, 0xF0, 0x90, 0xF0, 0x90, 0x90, 0xE0, 0x90, 0xE0, 0x90, 0xE0] ++
  [0xF0, 0x80, 0x80, 0x80, 0xF0, 0xE0, 0x90, 0x90, 0x90, 0xE0, 0xF0, 0x80, 0xF0, 0x80, 0xF0, 0xF0, 0x80, 0xF0, 0x80, 0x80]

/-- The launch premise of R242: the 16 glyphs stand at `FONT_BASE + 5 * d`. -/
def Memory.hasFont (m : Memory) : Bool := m.readBytes fontBase 80 == fontGlyphs

end Sys2Proof.Machine
end

