-- ==== Sys2Proof/Machine/Alu.lean ====
section
/-! DEFINITION. The instructions that compute into a general register (41_register_alu.md, R132 to R143). None raises an
error. -/

namespace Sys2Proof.Machine

/-- R132. -/
def execLdImm (x : RegIdx) (kk : Byte) (s : State) : Host.Outcome State Fault Refusal :=
  done false (s.setV x kk)

/-- R133: no carry is written (C6). -/
def execAddImm (x : RegIdx) (kk : Byte) (s : State) : Host.Outcome State Fault Refusal :=
  done false (s.setV x (addBytes s.v[x] kk))

/-- R134. -/
def execLdReg (x y : RegIdx) (s : State) : Host.Outcome State Fault Refusal :=
  done false (s.setV x s.v[y])

/-- R135: no flag (D11). -/
def execOr (x y : RegIdx) (s : State) : Host.Outcome State Fault Refusal :=
  done false (s.setV x (s.v[x] ||| s.v[y]))

/-- R136: no flag (D11). -/
def execAnd (x y : RegIdx) (s : State) : Host.Outcome State Fault Refusal :=
  done false (s.setV x (s.v[x] &&& s.v[y]))

/-- R137: no flag (D11). -/
def execXor (x y : RegIdx) (s : State) : Host.Outcome State Fault Refusal :=
  done false (s.setV x (s.v[x] ^^^ s.v[y]))

/-- R138. -/
def execAddReg (x y : RegIdx) (s : State) : Host.Outcome State Fault Refusal :=
  done false (s.setFlagThen (carryFlag s.v[x] s.v[y]) x (addBytes s.v[x] s.v[y]))

/-- R139. -/
def execSub (x y : RegIdx) (s : State) : Host.Outcome State Fault Refusal :=
  done false (s.setFlagThen (noBorrowFlag s.v[x] s.v[y]) x (subBytes s.v[x] s.v[y]))

/-- R140: `V[x]` is shifted in place; `y` is not read (D10). -/
def execShr (x _y : RegIdx) (s : State) : Host.Outcome State Fault Refusal :=
  done false (s.setFlagThen (lowBitFlag s.v[x]) x (halveByte s.v[x]))

/-- R141. -/
def execSubn (x y : RegIdx) (s : State) : Host.Outcome State Fault Refusal :=
  done false (s.setFlagThen (noBorrowFlag s.v[y] s.v[x]) x (subBytes s.v[y] s.v[x]))

/-- R142: `V[x]` is shifted in place; `y` is not read (D10). -/
def execShl (x _y : RegIdx) (s : State) : Host.Outcome State Fault Refusal :=
  done false (s.setFlagThen (highBitFlag s.v[x]) x (doubleByte s.v[x]))

/-- R143, with the step's `RANDOM` (R42). -/
def execRnd (x : RegIdx) (kk : Byte) (s : State) : Host.Outcome State Fault Refusal :=
  done false (s.setV x (s.inputs.random &&& kk))

end Sys2Proof.Machine
end

