-- ==== Sys2Proof/Machine/Control.lean ====
section
/-! DEFINITION. The control-transfer instructions (40_control_flow.md, R104 to R112). Every `PC` they read is already the
instruction's address plus 2 (R15, R101). -/

namespace Sys2Proof.Machine

/-- R104: `raise UnsupportedInstruction(Sys(nnn))`, always. -/
def execSys (nnn : Addr12) (s : State) : Host.Outcome State Fault Refusal :=
  raise (.unsupportedInstruction (.sys nnn)) s

/-- R105. -/
def execRet (s : State) : Host.Outcome State Fault Refusal :=
  match s.pop? with
  | none => raise .stackUnderflow s
  | some (target, s') => done false (s'.setPC target)

/-- R106. -/
def execJp (nnn : Addr12) (s : State) : Host.Outcome State Fault Refusal :=
  done false (s.setPC (zext16 nnn))

/-- R107: the pushed value is the `PC` that `apply` sees (C3). -/
def execCall (nnn : Addr12) (s : State) : Host.Outcome State Fault Refusal :=
  match s.push? s.pc with
  | none => raise .stackOverflow s
  | some s' => done false (s'.setPC (zext16 nnn))

/-- R108. -/
def execSeImm (x : RegIdx) (kk : Byte) (s : State) : Host.Outcome State Fault Refusal :=
  done false (s.skipIf (decide (s.v[x] = kk)))

/-- R109. -/
def execSneImm (x : RegIdx) (kk : Byte) (s : State) : Host.Outcome State Fault Refusal :=
  done false (s.skipIf (decide (s.v[x] ≠ kk)))

/-- R110. -/
def execSeReg (x y : RegIdx) (s : State) : Host.Outcome State Fault Refusal :=
  done false (s.skipIf (decide (s.v[x] = s.v[y])))

/-- R111. -/
def execSneReg (x y : RegIdx) (s : State) : Host.Outcome State Fault Refusal :=
  done false (s.skipIf (decide (s.v[x] ≠ s.v[y])))

/-- R112: register 0, whatever bits 11:8 hold; the target is not reduced to 12 bits (D13). -/
def execJpV0 (nnn : Addr12) (s : State) : Host.Outcome State Fault Refusal :=
  done false (s.setPC (addToWord (zext16 nnn) s.v[(0 : RegIdx)]))

end Sys2Proof.Machine
end

