-- ==== Sys2Proof/Machine/Keys.lean ====
section
/-! DEFINITION. The key-state skips, the wait for a key and the timer transfers (44_input_timers.md, R190 to R195). -/

namespace Sys2Proof.Machine

/-- R190. -/
def execSkp (x : RegIdx) (s : State) : Host.Outcome State Fault Refusal :=
  done false (s.skipIf (keyIsDown s.inputs s.v[x]))

/-- R191. -/
def execSknp (x : RegIdx) (s : State) : Host.Outcome State Fault Refusal :=
  done false (s.skipIf (!keyIsDown s.inputs s.v[x]))

/-- R192. -/
def execLdVxDt (x : RegIdx) (s : State) : Host.Outcome State Fault Refusal :=
  done false (s.setV x s.dt)

/-- The state after `LdK` with the step's `NEWKEY` (R193): none moves `PC` back to the `LdK` itself (C4). -/
def keyWait (x : RegIdx) (s : State) : Option Key → State
  | none => (s.setAwait true).setPC (prevAddr s.pc)
  | some k => (s.setV x (keyByte k)).setAwait false

/-- R193. -/
def execLdK (x : RegIdx) (s : State) : Host.Outcome State Fault Refusal :=
  done false (keyWait x s s.inputs.newKey)

/-- R194. -/
def execLdDtVx (x : RegIdx) (s : State) : Host.Outcome State Fault Refusal :=
  done false (s.setDT s.v[x])

/-- R195. -/
def execLdStVx (x : RegIdx) (s : State) : Host.Outcome State Fault Refusal :=
  done false (s.setST s.v[x])

end Sys2Proof.Machine
end

