-- ==== Sys2Proof/Machine/Screen.lean ====
section
/-! DEFINITION. The display instructions (43_display.md, R180 and R181). -/

namespace Sys2Proof.Machine

/-- R180. -/
def execCls (s : State) : Host.Outcome State Fault Refusal :=
  done true (s.setDisp Display.clear)

/-- The column `Drw` starts at, `V[x] % DISPLAY_W` (R181). -/
def drawCol (s : State) (x : RegIdx) : Nat := s.v[x].toNat % Config.displayW

/-- The row `Drw` starts at, `V[y] % DISPLAY_H` (R181). -/
def drawTop (s : State) (y : RegIdx) : Nat := s.v[y].toNat % Config.displayH

/-- The display and collision after the sprite of `n` bytes at `I` is drawn (R181). -/
def drawn (x y : RegIdx) (n : RowCount) (s : State) : Canvas :=
  drawSprite (s.mem.readBytes s.i.toNat n.val) (drawCol s x) (drawTop s y) { disp := s.disp, collision := false }

/-- R181: all `n` bytes are checked, clipped rows included, before any write; the flag is written after the drawing
(D15). -/
def execDrw (x y : RegIdx) (n : RowCount) (s : State) : Host.Outcome State Fault Refusal :=
  withRange s.i.toNat n.val s
    (done true ((s.setDisp (drawn x y n s).disp).setFlag (drawn x y n s).collision))

end Sys2Proof.Machine
end

