-- ==== Sys2Proof/Machine/Step.lean ====
section
/-! DEFINITION. One step (R100): the host's turn, the fetch, the decode, the advance, the apply; and the state in which
the next step runs a given word. -/

namespace Sys2Proof.Machine

/-- R100 from the state in which the fetch takes place. An error of the fetch or of decoding keeps `PC`; an error of
`apply` keeps the advanced one (R213). -/
def cycle (s : State) : Host.Outcome State Fault Refusal :=
  match s.fetch with
  | .error e => raise e s
  | .ok i => exec i s.advance

/-- One step, enabled only while `FAULT` is none (R31, R100): the host's turn and then the cycle. -/
def step (s : State) : Host.Outcome State Fault Refusal :=
  match s.fault with
  | some e => .fault (.stopped e)
  | none => cycle s.beginTurn

/-- `s` with the instruction whose bits the opcode table numbers as `w` stored where `step` fetches next, and with no
tick before that step, so that `step` runs exactly it (log 9). -/
def State.withFetchWord (s : State) (nbits w : Nat) : State :=
  { s with mem := s.mem.storeWord s.pc.toNat (tableWord nbits w), turns := s.turnsWithoutTicks }

end Sys2Proof.Machine
end

