-- ==== Sys2Proof/Safety.lean ====
section
/-! DEFINITION. What counts as a run (R223, R241, R247), the invariant of every run, what an instruction leaves
unchanged, and the spec's own tables of errors (R210, R212) and of writers (R23), in the terms the statements use. -/

namespace Sys2Proof.Machine

/-! ### Runs -/

/-- One transition of the machine: a step or a tick (R223). -/
inductive Transition : State → State → Prop where
  | step {s t : State} (h : step s = .next t) : Transition s t
  | tick {s t : State} (h : tick s = .next t) : Transition s t

/-- The states of the runs of R247: from the boot state of any well-formed image (R241), whatever the host does. -/
inductive Reachable : State → Prop where
  | boot (image : Memory) (turns : List Turn) (h : image.wf = true) : Reachable { State.boot image with turns := turns }
  | transition {s t : State} (hs : Reachable s) (h : Transition s t) : Reachable t

/-- `n` ticks one after another (R222). -/
def runTicks : Nat → State → Host.Outcome State Fault Refusal
  | 0, s => .next s
  | n + 1, s =>
    match tick s with
    | .next t => runTicks n t
    | .fault r => .fault r
    | .refused r => .refused r

/-- A run has stopped (R247). -/
def State.Stopped (s : State) : Prop := s.fault ≠ none

/-- A run is at rest: no error, and the word at `PC` is a jump to `PC` (R247). -/
def State.AtRest (s : State) : Prop := s.fault = none ∧ ∃ nnn : Addr12, s.fetch = .ok (.jp nnn) ∧ nnn.toNat = s.pc.toNat

/-- A run is waiting: `AWAIT` holds and the word at `PC` is a `LdK` (R30, R193). -/
def State.Waiting (s : State) : Prop := s.await = true ∧ s.fault = none ∧ ∃ x : RegIdx, s.fetch = .ok (.ldK x)

/-- The invariant of every run. Memory keeps its canonical form. `AWAIT` holds only while a `LdK` waits (R30). The
side-effect record agrees with `AWAIT` (R44) and a raised error leaves none. `PC` stays within what R112 says it can
reach, and a live stack entry is the address after a `Call` (R107). -/
structure State.Inv (s : State) : Prop where
  mem     : s.mem.wf = true
  await   : s.await = true → s.Waiting
  record  : ∀ r, s.effects = some r → r.waitingForKey = s.await
  stopped : s.fault ≠ none → s.effects = none
  pc      : s.pc.toNat ≤ 0x10FE
  returns : ∀ k : Fin 16, k.val < s.sp.val → 2 ≤ s.stack[k].toNat ∧ s.stack[k].toNat ≤ 0x1000

/-! ### What an instruction leaves unchanged -/

/-- Every register but the listed ones. -/
def KeepsRegs (ds : List RegIdx) (s t : State) : Prop := ∀ r : RegIdx, r ∉ ds → t.v[r] = s.v[r]

/-- Every byte of memory outside the `n` bytes from `base`. -/
def KeepsMemOutside (base n : Nat) (s t : State) : Prop :=
  ∀ a : Nat, a < base ∨ base + n ≤ a → t.mem.read a = s.mem.read a

/-- Every byte of memory. -/
def KeepsMem (s t : State) : Prop := ∀ a : Nat, t.mem.read a = s.mem.read a

/-- Every cell of the display. -/
def KeepsDisp (s t : State) : Prop := ∀ c r, t.disp.pixel c r = s.disp.pixel c r

/-- Both timers. -/
def KeepsTimers (s t : State) : Prop := t.dt = s.dt ∧ t.st = s.st

/-- The call stack, stale entries included. -/
def KeepsStack (s t : State) : Prop := t.sp = s.sp ∧ t.stack = s.stack

/-- The latch and the status. -/
def KeepsStatus (s t : State) : Prop := t.await = s.await ∧ t.fault = s.fault

/-- The model's own fields: the step's inputs, the host's turns and their count. -/
def KeepsHost (s t : State) : Prop := t.inputs = s.inputs ∧ t.turns = s.turns ∧ t.turnCount = s.turnCount

/-- The instruction completes, answering no display change, with `post` of the new state; it changes no register but
those of `ds`, not `PC` beyond the cycle's advance, and nothing else. -/
def RegisterOnly (i : Instr) (s : State) (ds : List RegIdx) (post : State → Prop) : Prop :=
  ∃ t, exec i s = .next t ∧ post t ∧ KeepsRegs ds s t ∧ t.i = s.i ∧ t.pc = s.pc ∧ KeepsTimers s t ∧ KeepsStack s t ∧
    KeepsMem s t ∧ KeepsDisp s t ∧ KeepsStatus s t ∧ KeepsHost s t ∧ t.effects = some ⟨false, s.await⟩

/-- The instruction completes with `post` of the new state, and writes nothing but `I`. -/
def IndexOnly (i : Instr) (s : State) (post : State → Prop) : Prop :=
  ∃ t, exec i s = .next t ∧ post t ∧ KeepsRegs [] s t ∧ t.pc = s.pc ∧ KeepsTimers s t ∧ KeepsStack s t ∧
    KeepsMem s t ∧ KeepsDisp s t ∧ KeepsStatus s t ∧ KeepsHost s t ∧ t.effects = some ⟨false, s.await⟩

/-- The instruction completes with `post` of the new state, and writes nothing but the two timers. -/
def TimersOnly (i : Instr) (s : State) (post : State → Prop) : Prop :=
  ∃ t, exec i s = .next t ∧ post t ∧ KeepsRegs [] s t ∧ t.i = s.i ∧ t.pc = s.pc ∧ KeepsStack s t ∧
    KeepsMem s t ∧ KeepsDisp s t ∧ KeepsStatus s t ∧ KeepsHost s t ∧ t.effects = some ⟨false, s.await⟩

/-- The instruction completes with `post` of the new state, and writes nothing but `PC`. -/
def ControlOnly (i : Instr) (s : State) (post : State → Prop) : Prop :=
  ∃ t, exec i s = .next t ∧ post t ∧ KeepsRegs [] s t ∧ t.i = s.i ∧ KeepsTimers s t ∧ KeepsStack s t ∧
    KeepsMem s t ∧ KeepsDisp s t ∧ KeepsStatus s t ∧ KeepsHost s t ∧ t.effects = some ⟨false, s.await⟩

/-- The instruction completes with `post` of the new state, and writes nothing but `PC` and the call stack. -/
def StackOnly (i : Instr) (s : State) (post : State → Prop) : Prop :=
  ∃ t, exec i s = .next t ∧ post t ∧ KeepsRegs [] s t ∧ t.i = s.i ∧ KeepsTimers s t ∧
    KeepsMem s t ∧ KeepsDisp s t ∧ KeepsStatus s t ∧ KeepsHost s t ∧ t.effects = some ⟨false, s.await⟩

/-- The instruction completes with `post` of the new state, and writes nothing but the `n` bytes of memory from
`base`. -/
def StoresOnly (i : Instr) (s : State) (base n : Nat) (post : State → Prop) : Prop :=
  ∃ t, exec i s = .next t ∧ post t ∧ KeepsMemOutside base n s t ∧ KeepsRegs [] s t ∧ t.i = s.i ∧ t.pc = s.pc ∧
    KeepsTimers s t ∧ KeepsStack s t ∧ KeepsDisp s t ∧ KeepsStatus s t ∧ KeepsHost s t ∧
    t.effects = some ⟨false, s.await⟩

/-- The instruction completes with `post` of the new state, answering a display change; it writes the display, no
register but those of `ds`, and nothing else. -/
def DisplayOnly (i : Instr) (s : State) (ds : List RegIdx) (post : State → Prop) : Prop :=
  ∃ t, exec i s = .next t ∧ post t ∧ KeepsRegs ds s t ∧ t.i = s.i ∧ t.pc = s.pc ∧ KeepsTimers s t ∧ KeepsStack s t ∧
    KeepsMem s t ∧ KeepsStatus s t ∧ KeepsHost s t ∧ t.effects = some ⟨true, s.await⟩

/-- `skip_if(c)` of R103, `PC` modulo 65536, and nothing else. -/
def SkipsWhen (i : Instr) (s : State) (c : Prop) : Prop :=
  ControlOnly i s fun t => (c → t.pc.toNat = (s.pc.toNat + 2) % 65536) ∧ (¬c → t.pc = s.pc)

/-- The instruction enters the faulted state with this error and writes nothing else (R213, R214); it returns no
side-effect record (R44). -/
def Raises (i : Instr) (s : State) (e : Error) : Prop := exec i s = .next { s with fault := some e, effects := none }

/-! ### The spec's tables -/

/-- `MemoryOutOfBounds` of a range of `count` bytes from `base` (R54): the lowest address outside memory. -/
def rangeError (base count : Nat) : Option Error :=
  if count ≠ 0 ∧ 4096 < base + count then some (.memoryOutOfBounds (if 4096 ≤ base then base else 4096)) else none

/-- The error an instruction raises in a state (R210, R212). -/
def applyError (i : Instr) (s : State) : Option Error :=
  match i with
  | .call _ => if s.sp.val = 16 then some .stackOverflow else none
  | .ret => if s.sp.val = 0 then some .stackUnderflow else none
  | .sys nnn => some (.unsupportedInstruction (.sys nnn))
  | .drw _ _ n => rangeError s.i.toNat n.val
  | .ldB _ => rangeError s.i.toNat 3
  | .storeRegs x => rangeError s.i.toNat (x.val + 1)
  | .readRegs x => rangeError s.i.toNat (x.val + 1)
  | _ => none

/-- The error a step raises in a state, in the order of R212: the fetch's bounds, decoding, the instruction's check. -/
def stepError (s : State) : Option Error :=
  if 4096 ≤ s.pc.toNat + 1 then some (.memoryOutOfBounds (if 4096 ≤ s.pc.toNat then s.pc.toNat else s.pc.toNat + 1))
  else
    match decode s.fetchWord with
    | .error _ => some (.decodeError s.fetchWord)
    | .ok i => applyError i s

/-- The registers an instruction may write (R23). -/
def destRegs : Instr → List RegIdx
  | .ldImm x _ => [x]
  | .addImm x _ => [x]
  | .ldReg x _ => [x]
  | .or x _ => [x]
  | .and x _ => [x]
  | .xor x _ => [x]
  | .rnd x _ => [x]
  | .ldVxDt x => [x]
  | .ldK x => [x]
  | .addReg x _ => [0xF, x]
  | .sub x _ => [0xF, x]
  | .subn x _ => [0xF, x]
  | .shr x _ => [0xF, x]
  | .shl x _ => [0xF, x]
  | .drw _ _ _ => [0xF]
  | .readRegs x => (List.finRange 16).filter (· ≤ x)
  | _ => []

/-- Whether an instruction writes `PC` beyond the cycle's advance (R27). -/
def writesPC : Instr → Bool
  | .ret => true
  | .jp _ => true
  | .call _ => true
  | .seImm _ _ => true
  | .sneImm _ _ => true
  | .seReg _ _ => true
  | .sneReg _ _ => true
  | .jpV0 _ => true
  | .skp _ => true
  | .sknp _ => true
  | .ldK _ => true
  | _ => false

/-- Whether the sprite of `n` bytes at `I`, drawn at `(V[x] mod 64, V[y] mod 32)`, has a 1 bit on the cell in column
`c`, row `r`: columns wrap, rows are clipped, bit 7 is the leftmost pixel (R181). -/
def spriteBit (s : State) (x y : RegIdx) (n : RowCount) (c : Fin 64) (r : Fin 32) : Bool :=
  let cx := s.v[x].toNat % 64
  let cy := s.v[y].toNat % 32
  let k := (c.val + 64 - cx) % 64
  decide (cy ≤ r.val ∧ r.val < cy + n.val ∧ k < 8) && (s.mem.read (s.i.toNat + (r.val - cy))).getLsbD (7 - k)

/-- The byte at an address after a `StoreRegs` in bounds (R164): `V[a - I]` from `I` to `I + x`, the old byte elsewhere. -/
def byteAfterStoreRegs (s : State) (x : RegIdx) (a : Nat) : Byte :=
  if s.i.toNat ≤ a ∧ a ≤ s.i.toNat + x.val then s.v[Fin.ofNat 16 (a - s.i.toNat)] else s.mem.read a

/-- The byte at an address after a `LdB` in bounds (R163): the digits of `V[x]` at `I` to `I + 2`, the old byte
elsewhere. -/
def byteAfterLdB (s : State) (x : RegIdx) (a : Nat) : Byte :=
  if a = s.i.toNat then BitVec.ofNat 8 (s.v[x].toNat / 100)
  else if a = s.i.toNat + 1 then BitVec.ofNat 8 (s.v[x].toNat / 10 % 10)
  else if a = s.i.toNat + 2 then BitVec.ofNat 8 (s.v[x].toNat % 10)
  else s.mem.read a

/-- The next fetch reads this word: it answers what the word decodes to, or `DecodeError` of it (R100). -/
def FetchesWord (w : Word) (s : State) : Prop :=
  (∀ i, decode w = .ok i → s.fetch = .ok i) ∧ (∀ f, decode w = .error f → s.fetch = .error (.decodeError w))

/-- Two states that differ in stack entries at or above `SP` and in nothing else (R28, R33). -/
def SameButStale (s t : State) : Prop :=
  t = { s with stack := t.stack } ∧ ∀ k : Fin 16, k.val < s.sp.val → t.stack[k] = s.stack[k]

end Sys2Proof.Machine
end

