-- ==== Sys2Proof/Certificates/Slice0/Obligations.lean ====
section
/-! DEFINITION. The statements for the provers, from the numbered rules of spec/. Arithmetic is written out on natural
numbers, not with the model's own helpers, wherever a rule gives a value. -/

open Sys2Proof Sys2Proof.Machine

/-! ### Encoding -/

/-- Every well-formed instruction is read back from its own word, with every operand. -/
def Obligations.DecodeOfEncode : Prop :=
  ∀ i : Instr, i.wellFormed = true → decode (encode i) = .ok i

/-- What R84 derives from R71, R75 and R80: a word that decodes is the word of its record, decoding is injective on
such words, and every record but two has a word. -/
def Obligations.EncodeOfDecode : Prop :=
  (∀ (w : Word) (i : Instr), decode w = .ok i → encode i = w) ∧
  (∀ (w₁ w₂ : Word) (i : Instr), decode w₁ = .ok i → decode w₂ = .ok i → w₁ = w₂) ∧
  (∀ i : Instr, (∃ w, decode w = .ok i) ↔ i ≠ .sys 0x0E0#12 ∧ i ≠ .sys 0x0EE#12)

/-- R71: the fields by bit position, in both correct orders of shift and mask. -/
def Obligations.FieldsAreReadByBitPosition : Prop :=
  (∀ w : Word,
    (fieldOp w).val = (w >>> 12).toNat ∧
    (fieldX w).val = ((w >>> 8) &&& 0xF#16).toNat ∧ (fieldX w).val = ((w &&& 0x0F00#16) >>> 8).toNat ∧
    (fieldY w).val = ((w >>> 4) &&& 0xF#16).toNat ∧ (fieldY w).val = ((w &&& 0x00F0#16) >>> 4).toNat ∧
    (fieldN w).val = (w &&& 0xF#16).toNat ∧ (fieldNNN w).toNat = (w &&& 0x0FFF#16).toNat ∧
    (fieldKK w).toNat = (w &&& 0x00FF#16).toNat) ∧
  decode 0x3A12#16 = .ok (.seImm 0xA 0x12#8)

/-- The `0` family, as the spec's own decision D3 fixes it (R76). -/
def Obligations.ZeroFamilyComparesTheWholeWord : Prop :=
  ∀ w : Word, w >>> 12 = 0#16 →
    decode w = .ok (if w = 0x00E0#16 then .cls else if w = 0x00EE#16 then .ret else .sys (BitVec.ofNat 12 w.toNat))

/-- The families that a sub-opcode splits, and their failing words, for a word given by its bits (R77, R78, R79; the
spec's own decisions D2 and D4; the names of the failures are the model's choice, log 13, the spec gives the word
alone). -/
def Obligations.SplitFamiliesDecodeBySubOpcode : Prop :=
  ∀ (w : Word) (x y n : Fin 16) (kk : Byte),
    (w >>> 8) &&& 0xF#16 = BitVec.ofNat 16 x.val → (w >>> 4) &&& 0xF#16 = BitVec.ofNat 16 y.val →
    w &&& 0xF#16 = BitVec.ofNat 16 n.val → w &&& 0xFF#16 = BitVec.ofNat 16 kk.toNat →
    (w >>> 12 = 0x5#16 → decode w = if n = 0 then .ok (.seReg x y) else .error (.skipFamily w)) ∧
    (w >>> 12 = 0x9#16 → decode w = if n = 0 then .ok (.sneReg x y) else .error (.skipFamily w)) ∧
    (w >>> 12 = 0x8#16 → decode w =
      if n = 0x0 then .ok (.ldReg x y) else if n = 0x1 then .ok (.or x y) else if n = 0x2 then .ok (.and x y)
      else if n = 0x3 then .ok (.xor x y) else if n = 0x4 then .ok (.addReg x y) else if n = 0x5 then .ok (.sub x y)
      else if n = 0x6 then .ok (.shr x y) else if n = 0x7 then .ok (.subn x y) else if n = 0xE then .ok (.shl x y)
      else .error (.aluFamily w)) ∧
    (w >>> 12 = 0xE#16 → decode w =
      if kk = 0x9E#8 then .ok (.skp x) else if kk = 0xA1#8 then .ok (.sknp x) else .error (.keyFamily w)) ∧
    (w >>> 12 = 0xF#16 → decode w =
      if kk = 0x07#8 then .ok (.ldVxDt x) else if kk = 0x0A#8 then .ok (.ldK x)
      else if kk = 0x15#8 then .ok (.ldDtVx x) else if kk = 0x18#8 then .ok (.ldStVx x)
      else if kk = 0x1E#8 then .ok (.addI x) else if kk = 0x29#8 then .ok (.ldF x)
      else if kk = 0x33#8 then .ok (.ldB x) else if kk = 0x55#8 then .ok (.storeRegs x)
      else if kk = 0x65#8 then .ok (.readRegs x) else .error (.miscFamily w))

/-- The words that decode to nothing are those of the table of R81 (its counts are not stated; the spec's own decisions
D2 and D4), and every failure names the word that failed (R210). -/
def Obligations.DecodeFailsOnlyInFiveFamilies : Prop :=
  (∀ w : Word, (∃ f, decode w = .error f) ↔
    (((w >>> 12 = 5#16 ∨ w >>> 12 = 9#16) ∧ w &&& 0xF#16 ≠ 0#16) ∨
     (w >>> 12 = 8#16 ∧ w &&& 0xF#16 ∈ [0x8#16, 0x9#16, 0xA#16, 0xB#16, 0xC#16, 0xD#16, 0xF#16]) ∨
     (w >>> 12 = 0xE#16 ∧ w &&& 0xFF#16 ∉ [0x9E#16, 0xA1#16]) ∨
     (w >>> 12 = 0xF#16 ∧
       w &&& 0xFF#16 ∉ [0x07#16, 0x0A#16, 0x15#16, 0x18#16, 0x1E#16, 0x29#16, 0x33#16, 0x55#16, 0x65#16]))) ∧
  (∀ (w : Word) (f : DecodeFailure), decode w = .error f → f.word = w)

/-- A few words written out from R80 and the vectors of 95_test_vectors.md decode to their instructions (the spec's own
decision D2; the name of the last one's failure is the model's choice, log 13). -/
def Obligations.SampleWordsDecode : Prop :=
  decode 0x00E0#16 = .ok .cls ∧ decode 0x01E0#16 = .ok (.sys 0x1E0#12) ∧ decode 0x2ABC#16 = .ok (.call 0xABC#12) ∧
  decode 0x5230#16 = .ok (.seReg 2 3) ∧ decode 0x7F01#16 = .ok (.addImm 0xF 0x01#8) ∧
  decode 0x8AB4#16 = .ok (.addReg 0xA 0xB) ∧ decode 0xA123#16 = .ok (.ldI 0x123#12) ∧
  decode 0xD5A3#16 = .ok (.drw 5 0xA 3) ∧ decode 0xE1A1#16 = .ok (.sknp 1) ∧ decode 0xF165#16 = .ok (.readRegs 1) ∧
  decode 0xFFFF#16 = .error (.miscFamily 0xFFFF#16)

/-! ### The cycle, errors, reset, runs -/

/-- The cycle of R100, with the spec's own decisions D1, D5, D6 and D7. The state `b` is the one in which the fetch
takes place: the model's step first makes the host's ticks and takes its inputs (`State.beginTurn`; grouping the ticks with
the step they precede is the model's choice, log 2, and so is a raised error as a next state, log 1). -/
def Obligations.StepRunsTheDecodedInstruction : Prop :=
  ∀ s b : State, b = s.beginTurn →
    (∀ e, s.fault = some e → step s = .fault (.stopped e)) ∧
    (s.fault = none → 4096 ≤ b.pc.toNat + 1 →
      step s = .next { b with
        fault := some (.memoryOutOfBounds (if 4096 ≤ b.pc.toNat then b.pc.toNat else b.pc.toNat + 1)), effects := none }) ∧
    (s.fault = none → b.pc.toNat + 1 < 4096 → ∀ w : Word,
      w.toNat = (b.mem.read b.pc.toNat).toNat * 256 + (b.mem.read (b.pc.toNat + 1)).toNat →
      (∀ f, decode w = .error f → step s = .next { b with fault := some (.decodeError w), effects := none }) ∧
      (∀ i, decode w = .ok i → step s = exec i { b with pc := BitVec.ofNat 16 (b.pc.toNat + 2) }))

/-- What a step does before its fetch: the host's ticks on both timers, the inputs, and nothing else. The grouping is
the model's (log 2, log 3); that any turn can be listed leaves the interleaving free (R222). -/
def Obligations.TurnTicksThenTakesInputs : Prop :=
  ∀ (s : State) (t : Turn) (ts : List Turn), s.turns = t :: ts → s.fault = none →
    runTicks t.ticks s = .next { s with dt := s.beginTurn.dt, st := s.beginTurn.st } ∧
    s.beginTurn.dt.toNat = s.dt.toNat - t.ticks ∧ s.beginTurn.st.toNat = s.st.toNat - t.ticks ∧
    s.beginTurn = { s with
      dt := s.beginTurn.dt, st := s.beginTurn.st, inputs := t.inputs, turns := ts, turnCount := s.turnCount + 1 }

/-- One tick, when it is enabled (R222, the spec's own decision D21), and that any number of ticks can fall before the
next step (by a turn the host's list may hold, the model's choice, log 2). -/
def Obligations.TickCountsBothTimersDown : Prop :=
  ∀ s : State,
    (s.fault = none →
      ∃ t, tick s = .next t ∧ t.dt.toNat = (if 0 < s.dt.toNat then s.dt.toNat - 1 else s.dt.toNat) ∧
        t.st.toNat = (if 0 < s.st.toNat then s.st.toNat - 1 else s.st.toNat) ∧ t = { s with dt := t.dt, st := t.st }) ∧
    (s.fault ≠ none → ∀ t, tick s ≠ .next t) ∧
    (s.fault = none → ∀ (n : Nat) (inp : Inputs), ∃ t, runTicks n s = .next t ∧
      ({ s with turns := ⟨n, inp⟩ :: s.turns } : State).beginTurn =
        { t with inputs := inp, turnCount := s.turnCount + 1 })

/-- The faulted state is final (R215, the spec's own decision D5); that a later step is a stop of the model is log 1. -/
def Obligations.FaultedStateTakesNoStepAndNoTick : Prop :=
  ∀ (s : State) (e : Error), s.fault = some e → step s = .fault (.stopped e) ∧ tick s = .fault (.stopped e)

/-- A step answers a next state unless `FAULT` already holds an error: no instruction stops the machine in another
way, and none is refused. That an error is taken as a next state is the model's reading, log 1; that `exec` does so in
a faulted state too, where no step calls it, is the model's choice, log 17. -/
def Obligations.StepAnswersNextUnlessStopped : Prop :=
  (∀ s : State, s.fault = none → ∃ t, step s = .next t) ∧ ∀ (i : Instr) (s : State), ∃ t, exec i s = .next t

/-- Which error a step raises, with its recorded value and code, and in which order of checks (R210 with the spec's own
decision D22, R212; the faulted state as a next state is log 1). -/
def Obligations.StepRaisesExactlyTheNamedErrors : Prop :=
  (∀ s : State, s.fault = none → ∃ t, step s = .next t ∧ t.fault = stepError s) ∧
  (∀ (w : Word) (i : Instr) (a : Nat), Error.code (.decodeError w) = 0 ∧ Error.code .stackOverflow = 1 ∧
    Error.code .stackUnderflow = 2 ∧ Error.code (.unsupportedInstruction i) = 3 ∧ Error.code (.memoryOutOfBounds a) = 4)

/-- R214 for `apply`, and R213 for the whole step (the spec's own decisions D5 and D8): after an error every register,
`I`, `SP`, `STACK`, `MEM`, `DISP`, `DT`, `ST` and `AWAIT` is as before the instruction, and `PC` is the failing word's
address for an error of the fetch or of decoding and that address plus 2 for an error of `apply`. That such an error
leaves no side-effect record is log 5. -/
def Obligations.ErrorsLeaveNoPartialEffect : Prop :=
  (∀ (i : Instr) (s t : State) (e : Error), s.fault = none → exec i s = .next t → t.fault = some e →
    t = { s with fault := some e, effects := none }) ∧
  (∀ (s t : State) (e : Error), s.fault = none → step s = .next t → t.fault = some e →
    (t = { s.beginTurn with fault := some e, effects := none } ∧ ∀ i, s.fetch ≠ .ok i) ∨
    (t = { s.beginTurn with pc := BitVec.ofNat 16 (s.pc.toNat + 2), fault := some e, effects := none } ∧
      ∃ i, s.fetch = .ok i)) ∧
  (∀ (s t : State) (e : Error), s.fault = none → step s = .next t → t.fault = some e →
    step t = .fault (.stopped e) ∧ tick t = .fault (.stopped e))

/-- The fields R240 names (R34, the spec's own decision D20); memory is the loader's, log 7. -/
def Obligations.ResetLeavesTheNamedValues : Prop :=
  (∀ r : RegIdx, State.reset.v[r] = 0#8) ∧ State.reset.i = 0#16 ∧ State.reset.dt = 0#8 ∧ State.reset.st = 0#8 ∧
  State.reset.sp = 0 ∧ (∀ k : Fin 16, State.reset.stack[k] = 0#16) ∧
  (∀ c r, State.reset.disp.pixel c r = false) ∧ State.reset.await = false ∧ State.reset.fault = none ∧
  State.reset.pc = 0x200#16

/-- Every boot state meets the invariant, whatever the image and the host's turns. -/
def Obligations.BootMeetsInvariant : Prop :=
  State.reset.Inv ∧
  ∀ (image : Memory) (turns : List Turn), image.wf = true → ({ State.boot image with turns := turns } : State).Inv

/-- Every step and every tick keeps the invariant, from every state that meets it. -/
def Obligations.TransitionsKeepInvariant : Prop :=
  ∀ s t : State, s.Inv → Transition s t → t.Inv

/-- Every state of every run meets the invariant: in particular `AWAIT` holds exactly while a `LdK` waits. -/
def Obligations.ReachableStatesMeetInvariant : Prop :=
  ∀ s : State, Reachable s → s.Inv

/-! ### Whole-machine rules -/

/-- No instruction writes a general register that the table of R23 does not name for it. -/
def Obligations.OnlyNamedRegistersAreWritten : Prop :=
  ∀ (i : Instr) (s t : State), exec i s = .next t → KeepsRegs (destRegs i) s t

/-- The writers of every other part of the state, over all instructions. -/
def Obligations.OnlyNamedInstructionsWriteEachPart : Prop :=
  ∀ (i : Instr) (s t : State), exec i s = .next t →
    ((∀ nnn, i ≠ .ldI nnn) → (∀ x, i ≠ .addI x) → (∀ x, i ≠ .ldF x) → t.i = s.i) ∧
    ((∀ x, i ≠ .ldDtVx x) → t.dt = s.dt) ∧
    ((∀ x, i ≠ .ldStVx x) → t.st = s.st) ∧
    ((∀ nnn, i ≠ .call nnn) → i ≠ .ret → KeepsStack s t) ∧
    (i ≠ .cls → (∀ x y n, i ≠ .drw x y n) → KeepsDisp s t) ∧
    ((∀ x, i ≠ .ldB x) → (∀ x, i ≠ .storeRegs x) → KeepsMem s t) ∧
    ((∀ x, i ≠ .ldK x) → t.await = s.await) ∧
    (writesPC i = false → t.pc = s.pc) ∧
    KeepsHost s t

/-- The record of a successful `apply` (R44, the spec's own decision D24); the last clause says that no instruction
reads the record, which State holds by log 5. -/
def Obligations.SideEffectRecordOfApply : Prop :=
  (∀ (i : Instr) (s t : State), s.fault = none → exec i s = .next t → t.fault = none →
    ∃ r, t.effects = some r ∧ (r.displayChanged = true ↔ i = .cls ∨ ∃ x y n, i = .drw x y n) ∧
      r.waitingForKey = t.await) ∧
  (∀ (i : Instr) (s : State) (e : Option SideEffects), exec i { s with effects := e } = exec i s)

/-- `RANDOM` reaches the machine only through `Rnd`, `KEYDOWN` only through `Skp` and `Sknp`, `NEWKEY` only through
`LdK`: any other instruction does the same whatever the inputs are. -/
def Obligations.InputsReachOnlyTheirInstructions : Prop :=
  ∀ (i : Instr) (s t : State) (inp : Inputs), exec i s = .next t →
    (∀ x kk, i = .rnd x kk → inp.random = s.inputs.random) →
    (∀ x, i = .skp x ∨ i = .sknp x → inp.keysDown = s.inputs.keysDown) →
    (∀ x, i = .ldK x → inp.newKey = s.inputs.newKey) →
    exec i { s with inputs := inp } = .next { t with inputs := inp }

/-- Stack entries at or above `SP` are never seen: two states that differ only there step to states that differ only
there. -/
def Obligations.StaleStackEntriesAreNeverSeen : Prop :=
  ∀ s s' t : State, SameButStale s s' → step s = .next t → ∃ t', step s' = .next t' ∧ SameButStale t t'

/-- At rest, every step leaves everything but the timers, and the machine is at rest again (R247, the spec's own
decision D34). That the step makes the ticks of the host's turn, so that the timers move in it, is the model's choice, log 2. -/
def Obligations.AtRestNothingChangesButTimers : Prop :=
  ∀ s : State, s.AtRest → ∃ t, step s = .next t ∧ t.AtRest ∧ t.pc = s.pc ∧ KeepsRegs [] s t ∧ t.i = s.i ∧
    KeepsStack s t ∧ KeepsMem s t ∧ KeepsDisp s t ∧ KeepsStatus s t ∧
    t.dt.toNat = s.dt.toNat - s.nextTurn.ticks ∧ t.st.toNat = s.st.toNat - s.nextTurn.ticks

/-- While no key is reported, every step applies the same `LdK` again and changes nothing but `AWAIT` and the timers the
host goes on ticking (R193, R226, the spec's own decision D17). That those ticks are made by the step they precede is
the model's choice, log 2. -/
def Obligations.WaitingStepRepeatsTheSameLdK : Prop :=
  ∀ (s : State) (x : RegIdx), s.fault = none → s.fetch = .ok (.ldK x) → s.nextTurn.inputs.newKey = none →
    ∃ t, step s = .next t ∧ t.Waiting ∧ t.fetch = .ok (.ldK x) ∧ t.pc = s.pc ∧ KeepsRegs [] s t ∧ t.i = s.i ∧
      KeepsStack s t ∧ KeepsMem s t ∧ KeepsDisp s t ∧ t.effects = some ⟨false, true⟩ ∧
      t.dt.toNat = s.dt.toNat - s.nextTurn.ticks ∧ t.st.toNat = s.st.toNat - s.nextTurn.ticks

/-! ### Control transfer -/

/-- R104 (marked with the spec's own decision D3); a raised error is a next state by log 1. -/
def Obligations.SysRaisesUnsupportedInstruction : Prop :=
  ∀ (s : State) (nnn : Addr12), Raises (.sys nnn) s (.unsupportedInstruction (.sys nnn))

/-- R105, with the underflow of an empty stack (a raised error is a next state by log 1). -/
def Obligations.RetPopsTheProgramCounter : Prop :=
  ∀ s : State,
    (s.sp.val = 0 → Raises .ret s .stackUnderflow) ∧
    (∀ k : Fin 16, s.sp.val = k.val + 1 →
      StackOnly .ret s fun t => t.pc = s.stack[k] ∧ t.sp.val = k.val ∧ t.stack = s.stack)

/-- `Jp` (R106), and `JpV0` as the spec's own decision D13 fixes it (R112). -/
def Obligations.JumpsSetTheProgramCounter : Prop :=
  ∀ (s : State) (nnn : Addr12),
    (ControlOnly (.jp nnn) s fun t => t.pc.toNat = nnn.toNat) ∧
    (ControlOnly (.jpV0 nnn) s fun t => t.pc.toNat = nnn.toNat + s.v[(0 : RegIdx)].toNat)

/-- R107, with the overflow of a full stack (a raised error is a next state by log 1). -/
def Obligations.CallPushesTheReturnAddress : Prop :=
  ∀ (s : State) (nnn : Addr12),
    (s.sp.val = 16 → Raises (.call nnn) s .stackOverflow) ∧
    (∀ k : Fin 16, s.sp.val = k.val →
      StackOnly (.call nnn) s fun t => t.pc.toNat = nnn.toNat ∧ t.sp.val = k.val + 1 ∧ t.stack[k] = s.pc ∧
        ∀ j : Fin 16, j ≠ k → t.stack[j] = s.stack[j])

/-- A `Call` and then a `Ret` resume after the `Call`, with the stack as deep as before. -/
def Obligations.RetAfterCallResumesAfterTheCall : Prop :=
  ∀ (s : State) (nnn : Addr12), s.sp.val < 16 →
    ∃ t u, exec (.call nnn) s = .next t ∧ exec .ret t = .next u ∧ u.pc = s.pc ∧ u.sp = s.sp ∧ KeepsRegs [] s u ∧
      ∀ j : Fin 16, j.val ≠ s.sp.val → u.stack[j] = s.stack[j]

/-- R108 to R111. -/
def Obligations.CompareSkipsSkipOneInstruction : Prop :=
  ∀ (s : State) (x y : RegIdx) (kk : Byte),
    SkipsWhen (.seImm x kk) s (s.v[x] = kk) ∧ SkipsWhen (.sneImm x kk) s (s.v[x] ≠ kk) ∧
    SkipsWhen (.seReg x y) s (s.v[x] = s.v[y]) ∧ SkipsWhen (.sneReg x y) s (s.v[x] ≠ s.v[y])

/-- `Skp` and `Sknp` (R190, R191); that a code of 16 or more names no key is the spec's own decision D16. -/
def Obligations.KeySkipsFollowTheKeyState : Prop :=
  ∀ (s : State) (x : RegIdx),
    (∀ k : Fin 16, s.v[x].toNat = k.val →
      SkipsWhen (.skp x) s (s.inputs.keysDown[k] = true) ∧ SkipsWhen (.sknp x) s (s.inputs.keysDown[k] = false)) ∧
    (16 ≤ s.v[x].toNat → SkipsWhen (.skp x) s False ∧ SkipsWhen (.sknp x) s True)

/-! ### Register arithmetic -/

/-- `LdImm` and `LdReg` (R132, R134), and `AddImm` (R133), whose lack of a carry is the spec's own decision D11. -/
def Obligations.LoadsAndAddImmediateWriteOneRegister : Prop :=
  ∀ (s : State) (x y : RegIdx) (kk : Byte),
    (RegisterOnly (.ldImm x kk) s [x] fun t => t.v[x] = kk) ∧
    (RegisterOnly (.addImm x kk) s [x] fun t => t.v[x].toNat = (s.v[x].toNat + kk.toNat) % 256) ∧
    (RegisterOnly (.ldReg x y) s [x] fun t => t.v[x] = s.v[y])

/-- `Or`, `And`, `Xor`, bit by bit (R135, R136, R137); that they write no flag is the spec's own decision D11. -/
def Obligations.LogicWritesBitwiseResultsAndNoFlag : Prop :=
  ∀ (s : State) (x y : RegIdx),
    (RegisterOnly (.or x y) s [x] fun t => ∀ k < 8, t.v[x].getLsbD k = (s.v[x].getLsbD k || s.v[y].getLsbD k)) ∧
    (RegisterOnly (.and x y) s [x] fun t => ∀ k < 8, t.v[x].getLsbD k = (s.v[x].getLsbD k && s.v[y].getLsbD k)) ∧
    (RegisterOnly (.xor x y) s [x] fun t => ∀ k < 8, t.v[x].getLsbD k = (s.v[x].getLsbD k ^^ s.v[y].getLsbD k))

/-- R138, the flag first and the result second. -/
def Obligations.AddRegWritesSumAndCarry : Prop :=
  ∀ (s : State) (x y : RegIdx),
    RegisterOnly (.addReg x y) s [0xF, x] fun t =>
      t.v[x].toNat = (s.v[x].toNat + s.v[y].toNat) % 256 ∧
      (x ≠ 0xF → t.v[(0xF : RegIdx)] = if 255 < s.v[x].toNat + s.v[y].toNat then 1#8 else 0#8)

/-- `Sub` and `Subn` (R139, R141); the order of the flag and the result is the spec's own decision D9 (R131). -/
def Obligations.SubtractionsWriteDifferenceAndNoBorrow : Prop :=
  ∀ (s : State) (x y : RegIdx),
    (RegisterOnly (.sub x y) s [0xF, x] fun t =>
      t.v[x].toNat = (s.v[x].toNat + 256 - s.v[y].toNat) % 256 ∧
      (x ≠ 0xF → t.v[(0xF : RegIdx)] = if s.v[y].toNat ≤ s.v[x].toNat then 1#8 else 0#8)) ∧
    (RegisterOnly (.subn x y) s [0xF, x] fun t =>
      t.v[x].toNat = (s.v[y].toNat + 256 - s.v[x].toNat) % 256 ∧
      (x ≠ 0xF → t.v[(0xF : RegIdx)] = if s.v[x].toNat ≤ s.v[y].toNat then 1#8 else 0#8))

/-- `Shr` and `Shl` (R140, R142), for every `y`; that `V[x]` is shifted is the spec's own decision D10. -/
def Obligations.ShiftsWriteResultAndBitShiftedOut : Prop :=
  ∀ (s : State) (x y : RegIdx),
    (RegisterOnly (.shr x y) s [0xF, x] fun t =>
      t.v[x].toNat = s.v[x].toNat / 2 ∧ (x ≠ 0xF → t.v[(0xF : RegIdx)].toNat = s.v[x].toNat % 2)) ∧
    (RegisterOnly (.shl x y) s [0xF, x] fun t =>
      t.v[x].toNat = s.v[x].toNat * 2 % 256 ∧ (x ≠ 0xF → t.v[(0xF : RegIdx)].toNat = s.v[x].toNat / 128))

/-- `Rnd` (R143), for every `RANDOM` (a free input, the spec's own decision D28). -/
def Obligations.RndMasksTheRandomByte : Prop :=
  ∀ (s : State) (x : RegIdx) (kk : Byte),
    RegisterOnly (.rnd x kk) s [x] fun t => ∀ k < 8, t.v[x].getLsbD k = (s.inputs.random.getLsbD k && kk.getLsbD k)

/-! ### The address register and memory -/

/-- `LdI` (R160), and `AddI` (R161) and `LdF` (R162) as the spec's own decisions D11, D12 and D18 fix them. -/
def Obligations.AddressRegisterWrites : Prop :=
  ∀ (s : State) (x : RegIdx) (nnn : Addr12),
    (IndexOnly (.ldI nnn) s fun t => t.i.toNat = nnn.toNat) ∧
    (IndexOnly (.addI x) s fun t => t.i.toNat = (s.i.toNat + s.v[x].toNat) % 65536) ∧
    (IndexOnly (.ldF x) s fun t => t.i.toNat = (0x000 + 5 * s.v[x].toNat) % 65536)

/-- Where memory holds the usual glyphs (R242's launch premise, log 18), `LdF` of a digit points at its glyph (the
spec's own decision D18). -/
def Obligations.LdFPointsAtTheGlyph : Prop :=
  ∀ (s : State) (x : RegIdx), s.mem.hasFont = true → s.v[x].toNat < 16 →
    IndexOnly (.ldF x) s fun t => t.mem.readBytes t.i.toNat 5 = (fontGlyphs.drop (5 * s.v[x].toNat)).take 5

/-- `LdB` (R163); its bounds check and that it leaves no partial effect are the spec's own decisions D8 and D19. -/
def Obligations.LdBStoresDecimalDigits : Prop :=
  ∀ (s : State) (x : RegIdx),
    (s.i.toNat + 2 < 4096 →
      StoresOnly (.ldB x) s s.i.toNat 3 fun t =>
        (t.mem.read s.i.toNat).toNat = s.v[x].toNat / 100 ∧
        (t.mem.read (s.i.toNat + 1)).toNat = s.v[x].toNat / 10 % 10 ∧
        (t.mem.read (s.i.toNat + 2)).toNat = s.v[x].toNat % 10) ∧
    (4096 ≤ s.i.toNat + 2 → Raises (.ldB x) s (.memoryOutOfBounds (max s.i.toNat 4096)))

/-- `StoreRegs` (R164); its bounds check and that it leaves no partial effect are the spec's own decisions D8 and
D19. -/
def Obligations.StoreRegsCopiesRegistersToMemory : Prop :=
  ∀ (s : State) (x : RegIdx),
    (s.i.toNat + x.val < 4096 →
      StoresOnly (.storeRegs x) s s.i.toNat (x.val + 1) fun t =>
        ∀ r : RegIdx, r ≤ x → t.mem.read (s.i.toNat + r.val) = s.v[r]) ∧
    (4096 ≤ s.i.toNat + x.val → Raises (.storeRegs x) s (.memoryOutOfBounds (max s.i.toNat 4096)))

/-- `ReadRegs` (R165); its bounds check and that it leaves no partial effect are the spec's own decisions D8 and D19. -/
def Obligations.ReadRegsCopiesMemoryToRegisters : Prop :=
  ∀ (s : State) (x : RegIdx),
    (s.i.toNat + x.val < 4096 →
      RegisterOnly (.readRegs x) s ((List.finRange 16).filter (· ≤ x)) fun t =>
        ∀ r : RegIdx, r ≤ x → t.v[r] = s.mem.read (s.i.toNat + r.val)) ∧
    (4096 ≤ s.i.toNat + x.val → Raises (.readRegs x) s (.memoryOutOfBounds (max s.i.toNat 4096)))

/-- `StoreRegs`, any change of the registers, and `ReadRegs` restore `V[0]` to `V[x]`, and `I` is the same throughout. -/
def Obligations.ReadRegsAfterStoreRegsRestores : Prop :=
  ∀ (s : State) (x : RegIdx) (v : Vector Byte 16), s.i.toNat + x.val < 4096 →
    ∃ t u, exec (.storeRegs x) s = .next t ∧ t.i = s.i ∧ exec (.readRegs x) { t with v := v } = .next u ∧ u.i = s.i ∧
      ∀ r : RegIdx, (r ≤ x → u.v[r] = s.v[r]) ∧ (x < r → u.v[r] = v[r])

/-- A fetch sees every byte that an earlier `StoreRegs` or `LdB` stored, wherever the stored range overlaps the word at
`PC` (both bytes, one of them or none) and whatever that word then is (R61, the spec's own decision D27). -/
def Obligations.FetchSeesEarlierStores : Prop :=
  ∀ (s : State) (x : RegIdx) (w : Word), s.pc.toNat + 1 < 4096 →
    (s.i.toNat + x.val < 4096 →
      w.toNat = (byteAfterStoreRegs s x s.pc.toNat).toNat * 256 + (byteAfterStoreRegs s x (s.pc.toNat + 1)).toNat →
      ∃ t, exec (.storeRegs x) s = .next t ∧ t.pc = s.pc ∧ FetchesWord w t) ∧
    (s.i.toNat + 2 < 4096 →
      w.toNat = (byteAfterLdB s x s.pc.toNat).toNat * 256 + (byteAfterLdB s x (s.pc.toNat + 1)).toNat →
      ∃ t, exec (.ldB x) s = .next t ∧ t.pc = s.pc ∧ FetchesWord w t)

/-! ### The display -/

/-- `Cls` (R180); no flag and the answered record are the spec's own decisions D11 and D24. -/
def Obligations.ClsTurnsEveryCellOff : Prop :=
  ∀ s : State, DisplayOnly .cls s [] fun t => ∀ c r, t.disp.pixel c r = false

/-- `Drw` (R181); the pixel order, the bounds check of clipped rows, the order of the writes and `n = 0` are the spec's
own decisions D14 and D15. -/
def Obligations.DrwXorsTheSpriteAndReportsCollision : Prop :=
  ∀ (s : State) (x y : RegIdx) (n : RowCount),
    (n.val = 0 ∨ s.i.toNat + n.val ≤ 4096 →
      DisplayOnly (.drw x y n) s [0xF] fun t =>
        (∀ c r, t.disp.pixel c r = (s.disp.pixel c r ^^ spriteBit s x y n c r)) ∧
        ((∃ c r, s.disp.pixel c r = true ∧ t.disp.pixel c r = false) → t.v[(0xF : RegIdx)] = 1#8) ∧
        ((¬∃ c r, s.disp.pixel c r = true ∧ t.disp.pixel c r = false) → t.v[(0xF : RegIdx)] = 0#8)) ∧
    (n.val ≠ 0 → 4096 < s.i.toNat + n.val → Raises (.drw x y n) s (.memoryOutOfBounds (max s.i.toNat 4096)))

/-- Drawing the same sprite twice at the same coordinates leaves the display as it was; the second draw reports a
collision exactly when the first turned a cell on (R181, with the spec's own decisions D14 and D15). -/
def Obligations.DrawingTwiceRestoresTheDisplay : Prop :=
  ∀ (s : State) (x y : RegIdx) (n : RowCount), x ≠ 0xF → y ≠ 0xF → s.i.toNat + n.val ≤ 4096 →
    ∃ t u, exec (.drw x y n) s = .next t ∧ exec (.drw x y n) t = .next u ∧
      (∀ c r, u.disp.pixel c r = s.disp.pixel c r) ∧
      (u.v[(0xF : RegIdx)] = 1#8 ↔ ∃ c r, s.disp.pixel c r = false ∧ t.disp.pixel c r = true)

/-! ### Keys and timers -/

/-- R192, R194, R195. -/
def Obligations.TimerTransfers : Prop :=
  ∀ (s : State) (x : RegIdx),
    (RegisterOnly (.ldVxDt x) s [x] fun t => t.v[x] = s.dt) ∧
    (TimersOnly (.ldDtVx x) s fun t => t.dt = s.v[x] ∧ t.st = s.st) ∧
    (TimersOnly (.ldStVx x) s fun t => t.st = s.v[x] ∧ t.dt = s.dt)

/-- `LdK` (R193), as the spec's own decision D17 realises the wait. -/
def Obligations.LdKWaitsForANewKey : Prop :=
  ∀ (s : State) (x : RegIdx), ∃ t, exec (.ldK x) s = .next t ∧
    (s.inputs.newKey = none → t.await = true ∧ t.pc.toNat = (s.pc.toNat + 65536 - 2) % 65536 ∧ KeepsRegs [] s t) ∧
    (∀ k : Key, s.inputs.newKey = some k →
      t.v[x].toNat = k.val ∧ t.await = false ∧ t.pc = s.pc ∧ KeepsRegs [x] s t) ∧
    t.i = s.i ∧ KeepsTimers s t ∧ KeepsStack s t ∧ KeepsMem s t ∧ KeepsDisp s t ∧ t.fault = s.fault ∧ KeepsHost s t ∧
    t.effects = some ⟨false, t.await⟩
end

