-- ==== Sys2Proof/Laws/Encoding.lean ====
section
/-! SUPPORT. The fields of a word built from fields, for the three layouts of R72, the two bytes of a word (R52), and the
fields as bit operations (R71). -/

namespace Sys2Proof

theorem encodeNNN_toNat {op : Nat} (h : op < 16) (nnn : Addr12) : (encodeNNN op nnn).toNat = op * 0x1000 + nnn.toNat := by
  have := nnn.isLt
  simp only [encodeNNN, BitVec.toNat_ofNat]; omega

theorem encodeXKK_toNat {op : Nat} (h : op < 16) (x : RegIdx) (kk : Byte) :
    (encodeXKK op x kk).toNat = op * 0x1000 + x.val * 0x100 + kk.toNat := by
  have := kk.isLt
  have := x.isLt
  simp only [encodeXKK, BitVec.toNat_ofNat]; omega

theorem encodeXYN_toNat {op : Nat} (h : op < 16) (x y : RegIdx) (n : Fin 16) :
    (encodeXYN op x y n).toNat = op * 0x1000 + x.val * 0x100 + y.val * 0x10 + n.val := by
  have := x.isLt
  have := y.isLt
  have := n.isLt
  simp only [encodeXYN, BitVec.toNat_ofNat]; omega

theorem fieldOp_val (w : Word) : (fieldOp w).val = w.toNat / 0x1000 := by
  have := w.isLt
  simp only [fieldOp, Fin.val_ofNat]; omega

theorem fieldX_val (w : Word) : (fieldX w).val = w.toNat / 0x100 % 16 := rfl

theorem fieldY_val (w : Word) : (fieldY w).val = w.toNat / 0x10 % 16 := rfl

theorem fieldN_val (w : Word) : (fieldN w).val = w.toNat % 16 := rfl

theorem fieldKK_toNat (w : Word) : (fieldKK w).toNat = w.toNat % 256 := by simp [fieldKK]

theorem fieldNNN_toNat (w : Word) : (fieldNNN w).toNat = w.toNat % 4096 := by simp [fieldNNN]

@[simp] theorem fieldOp_encodeNNN (op : Fin 16) (nnn : Addr12) : (fieldOp (encodeNNN op.val nnn)).val = op.val := by
  have := nnn.isLt
  rw [fieldOp_val, encodeNNN_toNat op.isLt]; omega

@[simp] theorem fieldNNN_encodeNNN (op : Fin 16) (nnn : Addr12) : fieldNNN (encodeNNN op.val nnn) = nnn := by
  have := nnn.isLt
  apply BitVec.eq_of_toNat_eq
  rw [fieldNNN_toNat, encodeNNN_toNat op.isLt]; omega

@[simp] theorem fieldOp_encodeXKK (op : Fin 16) (x : RegIdx) (kk : Byte) :
    (fieldOp (encodeXKK op.val x kk)).val = op.val := by
  have := kk.isLt
  have := x.isLt
  rw [fieldOp_val, encodeXKK_toNat op.isLt]; omega

@[simp] theorem fieldX_encodeXKK (op : Fin 16) (x : RegIdx) (kk : Byte) : fieldX (encodeXKK op.val x kk) = x := by
  have := kk.isLt
  have := x.isLt
  apply Fin.ext
  rw [fieldX_val, encodeXKK_toNat op.isLt]; omega

@[simp] theorem fieldKK_encodeXKK (op : Fin 16) (x : RegIdx) (kk : Byte) : fieldKK (encodeXKK op.val x kk) = kk := by
  have := kk.isLt
  apply BitVec.eq_of_toNat_eq
  rw [fieldKK_toNat, encodeXKK_toNat op.isLt]; omega

@[simp] theorem fieldOp_encodeXYN (op : Fin 16) (x y : RegIdx) (n : Fin 16) :
    (fieldOp (encodeXYN op.val x y n)).val = op.val := by
  have := x.isLt
  have := y.isLt
  have := n.isLt
  rw [fieldOp_val, encodeXYN_toNat op.isLt]; omega

@[simp] theorem fieldX_encodeXYN (op : Fin 16) (x y : RegIdx) (n : Fin 16) : fieldX (encodeXYN op.val x y n) = x := by
  have := x.isLt
  have := y.isLt
  have := n.isLt
  apply Fin.ext
  rw [fieldX_val, encodeXYN_toNat op.isLt]; omega

@[simp] theorem fieldY_encodeXYN (op : Fin 16) (x y : RegIdx) (n : Fin 16) : fieldY (encodeXYN op.val x y n) = y := by
  have := y.isLt
  have := n.isLt
  apply Fin.ext
  rw [fieldY_val, encodeXYN_toNat op.isLt]; omega

@[simp] theorem fieldN_encodeXYN (op : Fin 16) (x y : RegIdx) (n : Fin 16) : fieldN (encodeXYN op.val x y n) = n := by
  have := n.isLt
  apply Fin.ext
  rw [fieldN_val, encodeXYN_toNat op.isLt]; omega

theorem wordOfBytes_toNat (hi lo : Byte) : (wordOfBytes hi lo).toNat = hi.toNat * 256 + lo.toNat := by
  have := hi.isLt
  have := lo.isLt
  simp only [wordOfBytes, BitVec.toNat_ofNat]; omega

/-- A word laid out in memory order and read back is the word (R52). -/
theorem wordOfBytes_split (w : Word) : wordOfBytes (highByte w) (lowByte w) = w := by
  have := w.isLt
  apply BitVec.eq_of_toNat_eq
  rw [wordOfBytes_toNat]
  simp only [highByte, lowByte, BitVec.toNat_ofNat]; omega

end Sys2Proof
end

