-- ==== Sys2Proof/Laws/Memory.lean ====
section
/-! SUPPORT. Memory: what a read answers after a write, that every operation keeps the canonical form, and that equal
contents are equal data. -/

namespace Sys2Proof.Machine

@[simp] theorem Memory.read_nil (a : Nat) : Memory.read [] a = unlistedByte := rfl

@[simp] theorem Memory.read_cons (b : Nat) (x : Byte) (m : Memory) (a : Nat) :
    Memory.read ((b, x) :: m) a = if a = b then x else Memory.read m a := rfl

/-- Below the first address a canonical list may hold, nothing is listed. -/
theorem Memory.read_below {m : Memory} {lo a : Nat} (h : m.wfFrom lo = true) (ha : a < lo) :
    m.read a = unlistedByte := by
  induction m generalizing lo with
  | nil => rfl
  | cons c m ih =>
    obtain ⟨b, x⟩ := c
    simp only [Memory.wfFrom, Bool.and_eq_true, decide_eq_true_eq] at h
    have : a ≠ b := by omega
    simp [this, ih h.2 (by omega)]

theorem Memory.wfFrom_mono {m : Memory} {lo lo' : Nat} (h : m.wfFrom lo = true) (hl : lo' ≤ lo) :
    m.wfFrom lo' = true := by
  cases m with
  | nil => rfl
  | cons c m =>
    simp only [Memory.wfFrom, Bool.and_eq_true, decide_eq_true_eq] at h ⊢
    exact ⟨⟨⟨by omega, h.1.1.2⟩, h.1.2⟩, h.2⟩

theorem Memory.read_forget_same (m : Memory) (a : Nat) : (m.forget a).read a = unlistedByte := by
  induction m with
  | nil => rfl
  | cons c m ih =>
    obtain ⟨b, y⟩ := c
    by_cases h : b = a
    · simpa [Memory.forget, h] using ih
    · simpa [Memory.forget, h, Ne.symm h] using ih

theorem Memory.read_forget_other (m : Memory) {a a' : Nat} (h : a' ≠ a) : (m.forget a).read a' = m.read a' := by
  induction m with
  | nil => rfl
  | cons c m ih =>
    obtain ⟨b, y⟩ := c
    by_cases hb : b = a
    · simpa [Memory.forget, hb, h] using ih
    · by_cases ha : a' = b
      · simp [Memory.forget, hb, ha]
      · simpa [Memory.forget, hb, ha] using ih

theorem Memory.read_place_same {m : Memory} {a : Nat} (h : m.forget a = m) (x : Byte) : (m.place a x).read a = x := by
  induction m with
  | nil => simp [Memory.place]
  | cons c m ih =>
    obtain ⟨b, y⟩ := c
    have hb : b ≠ a := fun hb => by
      have := congrArg List.length h
      have hl := List.length_filter_le (fun c : Host.Cell => c.1 != a) m
      simp [Memory.forget, hb] at this
      omega
    have ih := ih (by simpa [Memory.forget, hb] using h)
    simp only [Memory.place]
    split <;> simp [Ne.symm hb, ih]

theorem Memory.read_place_other (m : Memory) {a a' : Nat} (x : Byte) (h : a' ≠ a) :
    (m.place a x).read a' = m.read a' := by
  induction m with
  | nil => simp [Memory.place, h]
  | cons c m ih =>
    obtain ⟨b, y⟩ := c
    simp only [Memory.place]
    split <;> simp [h, ih]

/-- Reading the address just written gives the value written, in every memory. -/
theorem Memory.read_write_same (m : Memory) (a : Nat) (x : Byte) : (m.write a x).read a = x := by
  unfold Memory.write
  split
  · rename_i h; rw [Memory.read_forget_same, h]
  · exact Memory.read_place_same (by simp [Memory.forget]) x

/-- Every other address reads as before a write. -/
theorem Memory.read_write_other (m : Memory) {a a' : Nat} (x : Byte) (h : a' ≠ a) :
    (m.write a x).read a' = m.read a' := by
  unfold Memory.write
  split
  · exact Memory.read_forget_other m h
  · rw [Memory.read_place_other _ _ h, Memory.read_forget_other m h]

theorem Memory.wfFrom_forget {m : Memory} {lo : Nat} (h : m.wfFrom lo = true) (a : Nat) :
    (m.forget a).wfFrom lo = true := by
  induction m generalizing lo with
  | nil => rfl
  | cons c m ih =>
    obtain ⟨b, y⟩ := c
    simp only [Memory.wfFrom, Bool.and_eq_true, decide_eq_true_eq] at h
    have := ih h.2
    by_cases hb : b = a
    · simpa [Memory.forget, hb] using Memory.wfFrom_mono this (show lo ≤ b + 1 by omega)
    · simpa [Memory.forget, hb, Memory.wfFrom, h.1] using this

theorem Memory.wfFrom_place {m : Memory} {lo a : Nat} (h : m.wfFrom lo = true) {x : Byte} (hm : m.forget a = m)
    (hx : x ≠ unlistedByte) (hl : lo ≤ a) (ha : a < Config.memSize) : (m.place a x).wfFrom lo = true := by
  induction m generalizing lo with
  | nil => simp [Memory.place, Memory.wfFrom, hl, ha, hx]
  | cons c m ih =>
    obtain ⟨b, y⟩ := c
    have hb : b ≠ a := fun hb => by
      have := congrArg List.length hm
      have hl := List.length_filter_le (fun c : Host.Cell => c.1 != a) m
      simp [Memory.forget, hb] at this
      omega
    simp only [Memory.wfFrom, Bool.and_eq_true, decide_eq_true_eq] at h
    simp only [Memory.place]
    split
    · simp only [Memory.wfFrom, Bool.and_eq_true, decide_eq_true_eq, bne_iff_ne]
      exact ⟨⟨⟨hl, ha⟩, hx⟩, ⟨⟨by omega, h.1.1.2⟩, by simpa using h.1.2⟩, h.2⟩
    · simp only [Memory.wfFrom, Bool.and_eq_true, decide_eq_true_eq]
      exact ⟨h.1, ih h.2 (by simpa [Memory.forget, hb] using hm) (by omega)⟩

/-- A write inside memory keeps the canonical form. -/
theorem Memory.wfFrom_write {m : Memory} {lo a : Nat} (h : m.wfFrom lo = true) (x : Byte) (hl : lo ≤ a)
    (ha : a < Config.memSize) : (m.write a x).wfFrom lo = true := by
  unfold Memory.write
  split
  · exact Memory.wfFrom_forget h a
  · exact Memory.wfFrom_place (Memory.wfFrom_forget h a) (by simp [Memory.forget]) ‹_› hl ha

theorem Memory.wf_nil : Memory.wf [] = true := rfl

theorem Memory.wf_write {m : Memory} (h : m.wf = true) {a : Nat} (x : Byte) (ha : a < Config.memSize) :
    (m.write a x).wf = true :=
  Memory.wfFrom_write h x (Nat.zero_le a) ha

/-- A run of writes inside memory keeps the canonical form. -/
theorem Memory.wf_writeBytes {m : Memory} (h : m.wf = true) (base : Nat) (bs : List Byte)
    (hb : base + bs.length ≤ Config.memSize) : (m.writeBytes base bs).wf = true := by
  induction bs generalizing m base with
  | nil => exact h
  | cons b bs ih =>
    simp only [List.length_cons] at hb
    exact ih (Memory.wf_write h b (by omega)) _ (by omega)

/-- Outside the bytes written, a run of writes leaves every address alone. -/
theorem Memory.read_writeBytes_outside (m : Memory) (base : Nat) (bs : List Byte) {a : Nat}
    (h : a < base ∨ base + bs.length ≤ a) : (m.writeBytes base bs).read a = m.read a := by
  induction bs generalizing m base with
  | nil => rfl
  | cons b bs ih =>
    simp only [List.length_cons] at h
    rw [Memory.writeBytes, ih _ _ (by omega), Memory.read_write_other _ _ (by omega)]

/-- The cells a run of writes stores read as the bytes given. -/
theorem Memory.read_writeBytes_inside (m : Memory) (base : Nat) (bs : List Byte) {k : Nat} (hk : k < bs.length) :
    (m.writeBytes base bs).read (base + k) = bs[k] := by
  induction bs generalizing m base k with
  | nil => simp at hk
  | cons b bs ih =>
    rw [Memory.writeBytes]
    cases k with
    | zero =>
      rw [Memory.read_writeBytes_outside _ _ _ (by omega)]
      exact Memory.read_write_same m _ _
    | succ k =>
      have := ih (m.write base b) (base + 1) (k := k) (by simpa using hk)
      simpa [Nat.add_assoc, Nat.add_comm 1 k] using this

/-- Two canonical memories with the same contents are the same data. -/
theorem Memory.eq_of_read_eq {m m' : Memory} {lo : Nat} (h : m.wfFrom lo = true) (h' : m'.wfFrom lo = true)
    (hr : ∀ a, m.read a = m'.read a) : m = m' := by
  induction m generalizing m' lo with
  | nil =>
    cases m' with
    | nil => rfl
    | cons c m' =>
      obtain ⟨b, y⟩ := c
      have := hr b
      simp_all [Memory.wfFrom]
  | cons c m ih =>
    obtain ⟨b, x⟩ := c
    cases m' with
    | nil =>
      have := hr b
      simp_all [Memory.wfFrom]
    | cons c' m' =>
      obtain ⟨b', x'⟩ := c'
      simp only [Memory.wfFrom, Bool.and_eq_true, decide_eq_true_eq, bne_iff_ne] at h h'
      have hb : b = b' := by
        rcases Nat.lt_trichotomy b b' with hlt | heq | hgt
        · have := hr b
          simp [show b ≠ b' by omega, Memory.read_below h'.2 (show b < b' + 1 by omega)] at this
          exact absurd this h.1.2
        · exact heq
        · have := hr b'
          simp [show b' ≠ b by omega, Memory.read_below h.2 (show b' < b + 1 by omega)] at this
          exact absurd this.symm h'.1.2
      subst hb
      have hx : x = x' := by simpa using hr b
      subst hx
      rw [ih h.2 h'.2 fun a => ?_]
      by_cases ha : a = b
      · subst ha
        rw [Memory.read_below h.2 (Nat.lt_succ_self a), Memory.read_below h'.2 (Nat.lt_succ_self a)]
      · simpa [ha] using hr a

theorem Memory.length_readBytes (m : Memory) (base n : Nat) : (m.readBytes base n).length = n := by
  simp [Memory.readBytes]

theorem Memory.getElem_readBytes (m : Memory) (base n k : Nat) (h : k < (m.readBytes base n).length) :
    (m.readBytes base n)[k] = m.read (base + k) := by
  simp [Memory.readBytes]

end Sys2Proof.Machine
end

