-- ==== Sys2Proof/Laws/Operands.lean ====
section
/-! SUPPORT. The values of the operand, flag and address helpers, as natural numbers. -/

namespace Sys2Proof.Machine

theorem trunc8_toNat (n : Int) : (trunc8 n).toNat = (n % 256).toNat := by
  simp [trunc8, BitVec.toNat_ofInt]

theorem trunc16_toNat (n : Int) : (trunc16 n).toNat = (n % 65536).toNat := by
  simp [trunc16, BitVec.toNat_ofInt]

theorem zext16_toNat (nnn : Addr12) : (zext16 nnn).toNat = nnn.toNat := by
  have := nnn.isLt
  simp only [zext16, BitVec.toNat_ofNat]
  omega

theorem addBytes_toNat (a b : Byte) : (addBytes a b).toNat = (a.toNat + b.toNat) % 256 := by
  rw [addBytes, trunc8_toNat]; omega

theorem subBytes_toNat (a b : Byte) : (subBytes a b).toNat = (a.toNat + 256 - b.toNat) % 256 := by
  have := b.isLt
  rw [subBytes, trunc8_toNat]; omega

theorem halveByte_toNat (a : Byte) : (halveByte a).toNat = a.toNat / 2 := by
  have := a.isLt
  rw [halveByte, trunc8_toNat]; omega

theorem doubleByte_toNat (a : Byte) : (doubleByte a).toNat = a.toNat * 2 % 256 := by
  rw [doubleByte, trunc8_toNat]; omega

theorem addToWord_toNat (w : Word) (b : Byte) : (addToWord w b).toNat = (w.toNat + b.toNat) % 65536 := by
  rw [addToWord, trunc16_toNat]; omega

theorem nextAddr_toNat (pc : Word) : (nextAddr pc).toNat = (pc.toNat + 2) % 65536 := by
  rw [nextAddr, trunc16_toNat]; omega

theorem prevAddr_toNat (pc : Word) : (prevAddr pc).toNat = (pc.toNat + 65536 - 2) % 65536 := by
  have := pc.isLt
  rw [prevAddr, trunc16_toNat]; omega

/-- Moving back undoes the cycle's advance, at every address (R193). -/
theorem prevAddr_nextAddr (pc : Word) : prevAddr (nextAddr pc) = pc := by
  have := pc.isLt
  apply BitVec.eq_of_toNat_eq
  rw [prevAddr_toNat, nextAddr_toNat]; omega

theorem nextAddr_eq_ofNat (pc : Word) : nextAddr pc = BitVec.ofNat 16 (pc.toNat + 2) := by
  apply BitVec.eq_of_toNat_eq
  rw [nextAddr_toNat]; simp

theorem glyphAddr_toNat (b : Byte) : (glyphAddr b).toNat = fontBase + fontStride * b.toNat := by
  have := b.isLt
  rw [glyphAddr, trunc16_toNat, fontBase, fontStride]; omega

theorem decimalDigits_toNat (b : Byte) :
    (decimalDigits b).map BitVec.toNat = [b.toNat / 100, b.toNat / 10 % 10, b.toNat % 10] := by
  have := b.isLt
  simp only [decimalDigits, List.map_cons, List.map_nil, trunc8_toNat, List.cons.injEq, and_true]
  omega

theorem flagByte_eq (b : Bool) : flagByte b = if b = true then 1#8 else 0#8 := rfl

theorem lowBitFlag_toNat (a : Byte) : (flagByte (lowBitFlag a)).toNat = a.toNat % 2 := by
  have h : a.getLsbD 0 = decide (a.toNat % 2 = 1) := by simp [BitVec.getLsbD, Nat.testBit_eq_decide_div_mod_eq]
  rw [lowBitFlag, h, flagByte]
  rcases Nat.mod_two_eq_zero_or_one a.toNat with h | h <;> simp [h]

theorem highBitFlag_toNat (a : Byte) : (flagByte (highBitFlag a)).toNat = a.toNat / 128 := by
  have := a.isLt
  have h : a.getLsbD 7 = decide (a.toNat / 128 = 1) := by
    simp only [BitVec.getLsbD, Nat.testBit_eq_decide_div_mod_eq]
    congr 1
    apply propext
    omega
  rw [highBitFlag, h, flagByte]
  rcases (show a.toNat / 128 = 0 ∨ a.toNat / 128 = 1 by omega) with h | h <;> simp [h]

theorem keyIsDown_of_lt (inp : Inputs) (code : Byte) (k : Key) (h : code.toNat = k.val) :
    keyIsDown inp code = inp.keysDown[k] := by
  have hk := k.isLt
  simp only [keyIsDown, h, hk, dite_true]
  rfl

theorem keyIsDown_of_ge (inp : Inputs) (code : Byte) (h : 16 ≤ code.toNat) : keyIsDown inp code = false := by
  simp [keyIsDown, show ¬code.toNat < 16 by omega]

theorem keyByte_toNat (k : Key) : (keyByte k).toNat = k.val := by
  have := k.isLt
  simp only [keyByte, BitVec.toNat_ofNat]; omega

end Sys2Proof.Machine
end

