-- ==== Sys2Proof/Laws/State.lean ====
section
/-! SUPPORT. One lemma for each field of State after each named update, so that no proof unfolds a record update. -/

namespace Sys2Proof.Machine

variable (s : State)

/-! ### `State.setV` -/

@[simp] theorem State.setV_v (r : RegIdx) (b : Byte) : (s.setV r b).v = s.v.set r b := rfl
@[simp] theorem State.setV_i (r : RegIdx) (b : Byte) : (s.setV r b).i = s.i := rfl
@[simp] theorem State.setV_dt (r : RegIdx) (b : Byte) : (s.setV r b).dt = s.dt := rfl
@[simp] theorem State.setV_st (r : RegIdx) (b : Byte) : (s.setV r b).st = s.st := rfl
@[simp] theorem State.setV_pc (r : RegIdx) (b : Byte) : (s.setV r b).pc = s.pc := rfl
@[simp] theorem State.setV_sp (r : RegIdx) (b : Byte) : (s.setV r b).sp = s.sp := rfl
@[simp] theorem State.setV_stack (r : RegIdx) (b : Byte) : (s.setV r b).stack = s.stack := rfl
@[simp] theorem State.setV_mem (r : RegIdx) (b : Byte) : (s.setV r b).mem = s.mem := rfl
@[simp] theorem State.setV_disp (r : RegIdx) (b : Byte) : (s.setV r b).disp = s.disp := rfl
@[simp] theorem State.setV_await (r : RegIdx) (b : Byte) : (s.setV r b).await = s.await := rfl
@[simp] theorem State.setV_fault (r : RegIdx) (b : Byte) : (s.setV r b).fault = s.fault := rfl
@[simp] theorem State.setV_effects (r : RegIdx) (b : Byte) : (s.setV r b).effects = s.effects := rfl
@[simp] theorem State.setV_inputs (r : RegIdx) (b : Byte) : (s.setV r b).inputs = s.inputs := rfl
@[simp] theorem State.setV_turns (r : RegIdx) (b : Byte) : (s.setV r b).turns = s.turns := rfl
@[simp] theorem State.setV_turnCount (r : RegIdx) (b : Byte) : (s.setV r b).turnCount = s.turnCount := rfl

/-! ### `State.setVs` -/

@[simp] theorem State.setVs_v (v : Vector Byte 16) : (s.setVs v).v = v := rfl
@[simp] theorem State.setVs_i (v : Vector Byte 16) : (s.setVs v).i = s.i := rfl
@[simp] theorem State.setVs_dt (v : Vector Byte 16) : (s.setVs v).dt = s.dt := rfl
@[simp] theorem State.setVs_st (v : Vector Byte 16) : (s.setVs v).st = s.st := rfl
@[simp] theorem State.setVs_pc (v : Vector Byte 16) : (s.setVs v).pc = s.pc := rfl
@[simp] theorem State.setVs_sp (v : Vector Byte 16) : (s.setVs v).sp = s.sp := rfl
@[simp] theorem State.setVs_stack (v : Vector Byte 16) : (s.setVs v).stack = s.stack := rfl
@[simp] theorem State.setVs_mem (v : Vector Byte 16) : (s.setVs v).mem = s.mem := rfl
@[simp] theorem State.setVs_disp (v : Vector Byte 16) : (s.setVs v).disp = s.disp := rfl
@[simp] theorem State.setVs_await (v : Vector Byte 16) : (s.setVs v).await = s.await := rfl
@[simp] theorem State.setVs_fault (v : Vector Byte 16) : (s.setVs v).fault = s.fault := rfl
@[simp] theorem State.setVs_effects (v : Vector Byte 16) : (s.setVs v).effects = s.effects := rfl
@[simp] theorem State.setVs_inputs (v : Vector Byte 16) : (s.setVs v).inputs = s.inputs := rfl
@[simp] theorem State.setVs_turns (v : Vector Byte 16) : (s.setVs v).turns = s.turns := rfl
@[simp] theorem State.setVs_turnCount (v : Vector Byte 16) : (s.setVs v).turnCount = s.turnCount := rfl

/-! ### `State.setFlag` -/

@[simp] theorem State.setFlag_v (b : Bool) : (s.setFlag b).v = s.v.set (0xF : RegIdx) (flagByte b) := rfl
@[simp] theorem State.setFlag_i (b : Bool) : (s.setFlag b).i = s.i := rfl
@[simp] theorem State.setFlag_dt (b : Bool) : (s.setFlag b).dt = s.dt := rfl
@[simp] theorem State.setFlag_st (b : Bool) : (s.setFlag b).st = s.st := rfl
@[simp] theorem State.setFlag_pc (b : Bool) : (s.setFlag b).pc = s.pc := rfl
@[simp] theorem State.setFlag_sp (b : Bool) : (s.setFlag b).sp = s.sp := rfl
@[simp] theorem State.setFlag_stack (b : Bool) : (s.setFlag b).stack = s.stack := rfl
@[simp] theorem State.setFlag_mem (b : Bool) : (s.setFlag b).mem = s.mem := rfl
@[simp] theorem State.setFlag_disp (b : Bool) : (s.setFlag b).disp = s.disp := rfl
@[simp] theorem State.setFlag_await (b : Bool) : (s.setFlag b).await = s.await := rfl
@[simp] theorem State.setFlag_fault (b : Bool) : (s.setFlag b).fault = s.fault := rfl
@[simp] theorem State.setFlag_effects (b : Bool) : (s.setFlag b).effects = s.effects := rfl
@[simp] theorem State.setFlag_inputs (b : Bool) : (s.setFlag b).inputs = s.inputs := rfl
@[simp] theorem State.setFlag_turns (b : Bool) : (s.setFlag b).turns = s.turns := rfl
@[simp] theorem State.setFlag_turnCount (b : Bool) : (s.setFlag b).turnCount = s.turnCount := rfl

/-! ### `State.setFlagThen` -/

@[simp] theorem State.setFlagThen_v (f : Bool) (x : RegIdx) (b : Byte) : (s.setFlagThen f x b).v = (s.v.set (0xF : RegIdx) (flagByte f)).set x b := rfl
@[simp] theorem State.setFlagThen_i (f : Bool) (x : RegIdx) (b : Byte) : (s.setFlagThen f x b).i = s.i := rfl
@[simp] theorem State.setFlagThen_dt (f : Bool) (x : RegIdx) (b : Byte) : (s.setFlagThen f x b).dt = s.dt := rfl
@[simp] theorem State.setFlagThen_st (f : Bool) (x : RegIdx) (b : Byte) : (s.setFlagThen f x b).st = s.st := rfl
@[simp] theorem State.setFlagThen_pc (f : Bool) (x : RegIdx) (b : Byte) : (s.setFlagThen f x b).pc = s.pc := rfl
@[simp] theorem State.setFlagThen_sp (f : Bool) (x : RegIdx) (b : Byte) : (s.setFlagThen f x b).sp = s.sp := rfl
@[simp] theorem State.setFlagThen_stack (f : Bool) (x : RegIdx) (b : Byte) : (s.setFlagThen f x b).stack = s.stack := rfl
@[simp] theorem State.setFlagThen_mem (f : Bool) (x : RegIdx) (b : Byte) : (s.setFlagThen f x b).mem = s.mem := rfl
@[simp] theorem State.setFlagThen_disp (f : Bool) (x : RegIdx) (b : Byte) : (s.setFlagThen f x b).disp = s.disp := rfl
@[simp] theorem State.setFlagThen_await (f : Bool) (x : RegIdx) (b : Byte) : (s.setFlagThen f x b).await = s.await := rfl
@[simp] theorem State.setFlagThen_fault (f : Bool) (x : RegIdx) (b : Byte) : (s.setFlagThen f x b).fault = s.fault := rfl
@[simp] theorem State.setFlagThen_effects (f : Bool) (x : RegIdx) (b : Byte) : (s.setFlagThen f x b).effects = s.effects := rfl
@[simp] theorem State.setFlagThen_inputs (f : Bool) (x : RegIdx) (b : Byte) : (s.setFlagThen f x b).inputs = s.inputs := rfl
@[simp] theorem State.setFlagThen_turns (f : Bool) (x : RegIdx) (b : Byte) : (s.setFlagThen f x b).turns = s.turns := rfl
@[simp] theorem State.setFlagThen_turnCount (f : Bool) (x : RegIdx) (b : Byte) : (s.setFlagThen f x b).turnCount = s.turnCount := rfl

/-! ### `State.setI` -/

@[simp] theorem State.setI_v (w : Word) : (s.setI w).v = s.v := rfl
@[simp] theorem State.setI_i (w : Word) : (s.setI w).i = w := rfl
@[simp] theorem State.setI_dt (w : Word) : (s.setI w).dt = s.dt := rfl
@[simp] theorem State.setI_st (w : Word) : (s.setI w).st = s.st := rfl
@[simp] theorem State.setI_pc (w : Word) : (s.setI w).pc = s.pc := rfl
@[simp] theorem State.setI_sp (w : Word) : (s.setI w).sp = s.sp := rfl
@[simp] theorem State.setI_stack (w : Word) : (s.setI w).stack = s.stack := rfl
@[simp] theorem State.setI_mem (w : Word) : (s.setI w).mem = s.mem := rfl
@[simp] theorem State.setI_disp (w : Word) : (s.setI w).disp = s.disp := rfl
@[simp] theorem State.setI_await (w : Word) : (s.setI w).await = s.await := rfl
@[simp] theorem State.setI_fault (w : Word) : (s.setI w).fault = s.fault := rfl
@[simp] theorem State.setI_effects (w : Word) : (s.setI w).effects = s.effects := rfl
@[simp] theorem State.setI_inputs (w : Word) : (s.setI w).inputs = s.inputs := rfl
@[simp] theorem State.setI_turns (w : Word) : (s.setI w).turns = s.turns := rfl
@[simp] theorem State.setI_turnCount (w : Word) : (s.setI w).turnCount = s.turnCount := rfl

/-! ### `State.setDT` -/

@[simp] theorem State.setDT_v (b : Byte) : (s.setDT b).v = s.v := rfl
@[simp] theorem State.setDT_i (b : Byte) : (s.setDT b).i = s.i := rfl
@[simp] theorem State.setDT_dt (b : Byte) : (s.setDT b).dt = b := rfl
@[simp] theorem State.setDT_st (b : Byte) : (s.setDT b).st = s.st := rfl
@[simp] theorem State.setDT_pc (b : Byte) : (s.setDT b).pc = s.pc := rfl
@[simp] theorem State.setDT_sp (b : Byte) : (s.setDT b).sp = s.sp := rfl
@[simp] theorem State.setDT_stack (b : Byte) : (s.setDT b).stack = s.stack := rfl
@[simp] theorem State.setDT_mem (b : Byte) : (s.setDT b).mem = s.mem := rfl
@[simp] theorem State.setDT_disp (b : Byte) : (s.setDT b).disp = s.disp := rfl
@[simp] theorem State.setDT_await (b : Byte) : (s.setDT b).await = s.await := rfl
@[simp] theorem State.setDT_fault (b : Byte) : (s.setDT b).fault = s.fault := rfl
@[simp] theorem State.setDT_effects (b : Byte) : (s.setDT b).effects = s.effects := rfl
@[simp] theorem State.setDT_inputs (b : Byte) : (s.setDT b).inputs = s.inputs := rfl
@[simp] theorem State.setDT_turns (b : Byte) : (s.setDT b).turns = s.turns := rfl
@[simp] theorem State.setDT_turnCount (b : Byte) : (s.setDT b).turnCount = s.turnCount := rfl

/-! ### `State.setST` -/

@[simp] theorem State.setST_v (b : Byte) : (s.setST b).v = s.v := rfl
@[simp] theorem State.setST_i (b : Byte) : (s.setST b).i = s.i := rfl
@[simp] theorem State.setST_dt (b : Byte) : (s.setST b).dt = s.dt := rfl
@[simp] theorem State.setST_st (b : Byte) : (s.setST b).st = b := rfl
@[simp] theorem State.setST_pc (b : Byte) : (s.setST b).pc = s.pc := rfl
@[simp] theorem State.setST_sp (b : Byte) : (s.setST b).sp = s.sp := rfl
@[simp] theorem State.setST_stack (b : Byte) : (s.setST b).stack = s.stack := rfl
@[simp] theorem State.setST_mem (b : Byte) : (s.setST b).mem = s.mem := rfl
@[simp] theorem State.setST_disp (b : Byte) : (s.setST b).disp = s.disp := rfl
@[simp] theorem State.setST_await (b : Byte) : (s.setST b).await = s.await := rfl
@[simp] theorem State.setST_fault (b : Byte) : (s.setST b).fault = s.fault := rfl
@[simp] theorem State.setST_effects (b : Byte) : (s.setST b).effects = s.effects := rfl
@[simp] theorem State.setST_inputs (b : Byte) : (s.setST b).inputs = s.inputs := rfl
@[simp] theorem State.setST_turns (b : Byte) : (s.setST b).turns = s.turns := rfl
@[simp] theorem State.setST_turnCount (b : Byte) : (s.setST b).turnCount = s.turnCount := rfl

/-! ### `State.setPC` -/

@[simp] theorem State.setPC_v (w : Word) : (s.setPC w).v = s.v := rfl
@[simp] theorem State.setPC_i (w : Word) : (s.setPC w).i = s.i := rfl
@[simp] theorem State.setPC_dt (w : Word) : (s.setPC w).dt = s.dt := rfl
@[simp] theorem State.setPC_st (w : Word) : (s.setPC w).st = s.st := rfl
@[simp] theorem State.setPC_pc (w : Word) : (s.setPC w).pc = w := rfl
@[simp] theorem State.setPC_sp (w : Word) : (s.setPC w).sp = s.sp := rfl
@[simp] theorem State.setPC_stack (w : Word) : (s.setPC w).stack = s.stack := rfl
@[simp] theorem State.setPC_mem (w : Word) : (s.setPC w).mem = s.mem := rfl
@[simp] theorem State.setPC_disp (w : Word) : (s.setPC w).disp = s.disp := rfl
@[simp] theorem State.setPC_await (w : Word) : (s.setPC w).await = s.await := rfl
@[simp] theorem State.setPC_fault (w : Word) : (s.setPC w).fault = s.fault := rfl
@[simp] theorem State.setPC_effects (w : Word) : (s.setPC w).effects = s.effects := rfl
@[simp] theorem State.setPC_inputs (w : Word) : (s.setPC w).inputs = s.inputs := rfl
@[simp] theorem State.setPC_turns (w : Word) : (s.setPC w).turns = s.turns := rfl
@[simp] theorem State.setPC_turnCount (w : Word) : (s.setPC w).turnCount = s.turnCount := rfl

/-! ### `State.setAwait` -/

@[simp] theorem State.setAwait_v (b : Bool) : (s.setAwait b).v = s.v := rfl
@[simp] theorem State.setAwait_i (b : Bool) : (s.setAwait b).i = s.i := rfl
@[simp] theorem State.setAwait_dt (b : Bool) : (s.setAwait b).dt = s.dt := rfl
@[simp] theorem State.setAwait_st (b : Bool) : (s.setAwait b).st = s.st := rfl
@[simp] theorem State.setAwait_pc (b : Bool) : (s.setAwait b).pc = s.pc := rfl
@[simp] theorem State.setAwait_sp (b : Bool) : (s.setAwait b).sp = s.sp := rfl
@[simp] theorem State.setAwait_stack (b : Bool) : (s.setAwait b).stack = s.stack := rfl
@[simp] theorem State.setAwait_mem (b : Bool) : (s.setAwait b).mem = s.mem := rfl
@[simp] theorem State.setAwait_disp (b : Bool) : (s.setAwait b).disp = s.disp := rfl
@[simp] theorem State.setAwait_await (b : Bool) : (s.setAwait b).await = b := rfl
@[simp] theorem State.setAwait_fault (b : Bool) : (s.setAwait b).fault = s.fault := rfl
@[simp] theorem State.setAwait_effects (b : Bool) : (s.setAwait b).effects = s.effects := rfl
@[simp] theorem State.setAwait_inputs (b : Bool) : (s.setAwait b).inputs = s.inputs := rfl
@[simp] theorem State.setAwait_turns (b : Bool) : (s.setAwait b).turns = s.turns := rfl
@[simp] theorem State.setAwait_turnCount (b : Bool) : (s.setAwait b).turnCount = s.turnCount := rfl

/-! ### `State.setMem` -/

@[simp] theorem State.setMem_v (m : Memory) : (s.setMem m).v = s.v := rfl
@[simp] theorem State.setMem_i (m : Memory) : (s.setMem m).i = s.i := rfl
@[simp] theorem State.setMem_dt (m : Memory) : (s.setMem m).dt = s.dt := rfl
@[simp] theorem State.setMem_st (m : Memory) : (s.setMem m).st = s.st := rfl
@[simp] theorem State.setMem_pc (m : Memory) : (s.setMem m).pc = s.pc := rfl
@[simp] theorem State.setMem_sp (m : Memory) : (s.setMem m).sp = s.sp := rfl
@[simp] theorem State.setMem_stack (m : Memory) : (s.setMem m).stack = s.stack := rfl
@[simp] theorem State.setMem_mem (m : Memory) : (s.setMem m).mem = m := rfl
@[simp] theorem State.setMem_disp (m : Memory) : (s.setMem m).disp = s.disp := rfl
@[simp] theorem State.setMem_await (m : Memory) : (s.setMem m).await = s.await := rfl
@[simp] theorem State.setMem_fault (m : Memory) : (s.setMem m).fault = s.fault := rfl
@[simp] theorem State.setMem_effects (m : Memory) : (s.setMem m).effects = s.effects := rfl
@[simp] theorem State.setMem_inputs (m : Memory) : (s.setMem m).inputs = s.inputs := rfl
@[simp] theorem State.setMem_turns (m : Memory) : (s.setMem m).turns = s.turns := rfl
@[simp] theorem State.setMem_turnCount (m : Memory) : (s.setMem m).turnCount = s.turnCount := rfl

/-! ### `State.setDisp` -/

@[simp] theorem State.setDisp_v (d : Display) : (s.setDisp d).v = s.v := rfl
@[simp] theorem State.setDisp_i (d : Display) : (s.setDisp d).i = s.i := rfl
@[simp] theorem State.setDisp_dt (d : Display) : (s.setDisp d).dt = s.dt := rfl
@[simp] theorem State.setDisp_st (d : Display) : (s.setDisp d).st = s.st := rfl
@[simp] theorem State.setDisp_pc (d : Display) : (s.setDisp d).pc = s.pc := rfl
@[simp] theorem State.setDisp_sp (d : Display) : (s.setDisp d).sp = s.sp := rfl
@[simp] theorem State.setDisp_stack (d : Display) : (s.setDisp d).stack = s.stack := rfl
@[simp] theorem State.setDisp_mem (d : Display) : (s.setDisp d).mem = s.mem := rfl
@[simp] theorem State.setDisp_disp (d : Display) : (s.setDisp d).disp = d := rfl
@[simp] theorem State.setDisp_await (d : Display) : (s.setDisp d).await = s.await := rfl
@[simp] theorem State.setDisp_fault (d : Display) : (s.setDisp d).fault = s.fault := rfl
@[simp] theorem State.setDisp_effects (d : Display) : (s.setDisp d).effects = s.effects := rfl
@[simp] theorem State.setDisp_inputs (d : Display) : (s.setDisp d).inputs = s.inputs := rfl
@[simp] theorem State.setDisp_turns (d : Display) : (s.setDisp d).turns = s.turns := rfl
@[simp] theorem State.setDisp_turnCount (d : Display) : (s.setDisp d).turnCount = s.turnCount := rfl

/-! ### `State.advance` -/

@[simp] theorem State.advance_v : (s.advance).v = s.v := rfl
@[simp] theorem State.advance_i : (s.advance).i = s.i := rfl
@[simp] theorem State.advance_dt : (s.advance).dt = s.dt := rfl
@[simp] theorem State.advance_st : (s.advance).st = s.st := rfl
@[simp] theorem State.advance_pc : (s.advance).pc = nextAddr s.pc := rfl
@[simp] theorem State.advance_sp : (s.advance).sp = s.sp := rfl
@[simp] theorem State.advance_stack : (s.advance).stack = s.stack := rfl
@[simp] theorem State.advance_mem : (s.advance).mem = s.mem := rfl
@[simp] theorem State.advance_disp : (s.advance).disp = s.disp := rfl
@[simp] theorem State.advance_await : (s.advance).await = s.await := rfl
@[simp] theorem State.advance_fault : (s.advance).fault = s.fault := rfl
@[simp] theorem State.advance_effects : (s.advance).effects = s.effects := rfl
@[simp] theorem State.advance_inputs : (s.advance).inputs = s.inputs := rfl
@[simp] theorem State.advance_turns : (s.advance).turns = s.turns := rfl
@[simp] theorem State.advance_turnCount : (s.advance).turnCount = s.turnCount := rfl

/-! ### `State.skipIf` -/

@[simp] theorem State.skipIf_v (c : Bool) : (s.skipIf c).v = s.v := rfl
@[simp] theorem State.skipIf_i (c : Bool) : (s.skipIf c).i = s.i := rfl
@[simp] theorem State.skipIf_dt (c : Bool) : (s.skipIf c).dt = s.dt := rfl
@[simp] theorem State.skipIf_st (c : Bool) : (s.skipIf c).st = s.st := rfl
@[simp] theorem State.skipIf_pc (c : Bool) : (s.skipIf c).pc = if c then nextAddr s.pc else s.pc := rfl
@[simp] theorem State.skipIf_sp (c : Bool) : (s.skipIf c).sp = s.sp := rfl
@[simp] theorem State.skipIf_stack (c : Bool) : (s.skipIf c).stack = s.stack := rfl
@[simp] theorem State.skipIf_mem (c : Bool) : (s.skipIf c).mem = s.mem := rfl
@[simp] theorem State.skipIf_disp (c : Bool) : (s.skipIf c).disp = s.disp := rfl
@[simp] theorem State.skipIf_await (c : Bool) : (s.skipIf c).await = s.await := rfl
@[simp] theorem State.skipIf_fault (c : Bool) : (s.skipIf c).fault = s.fault := rfl
@[simp] theorem State.skipIf_effects (c : Bool) : (s.skipIf c).effects = s.effects := rfl
@[simp] theorem State.skipIf_inputs (c : Bool) : (s.skipIf c).inputs = s.inputs := rfl
@[simp] theorem State.skipIf_turns (c : Bool) : (s.skipIf c).turns = s.turns := rfl
@[simp] theorem State.skipIf_turnCount (c : Bool) : (s.skipIf c).turnCount = s.turnCount := rfl

/-! ### `State.raised` -/

@[simp] theorem State.raised_v (e : Error) : (s.raised e).v = s.v := rfl
@[simp] theorem State.raised_i (e : Error) : (s.raised e).i = s.i := rfl
@[simp] theorem State.raised_dt (e : Error) : (s.raised e).dt = s.dt := rfl
@[simp] theorem State.raised_st (e : Error) : (s.raised e).st = s.st := rfl
@[simp] theorem State.raised_pc (e : Error) : (s.raised e).pc = s.pc := rfl
@[simp] theorem State.raised_sp (e : Error) : (s.raised e).sp = s.sp := rfl
@[simp] theorem State.raised_stack (e : Error) : (s.raised e).stack = s.stack := rfl
@[simp] theorem State.raised_mem (e : Error) : (s.raised e).mem = s.mem := rfl
@[simp] theorem State.raised_disp (e : Error) : (s.raised e).disp = s.disp := rfl
@[simp] theorem State.raised_await (e : Error) : (s.raised e).await = s.await := rfl
@[simp] theorem State.raised_fault (e : Error) : (s.raised e).fault = some e := rfl
@[simp] theorem State.raised_effects (e : Error) : (s.raised e).effects = none := rfl
@[simp] theorem State.raised_inputs (e : Error) : (s.raised e).inputs = s.inputs := rfl
@[simp] theorem State.raised_turns (e : Error) : (s.raised e).turns = s.turns := rfl
@[simp] theorem State.raised_turnCount (e : Error) : (s.raised e).turnCount = s.turnCount := rfl

/-! ### `State.afterTicks` -/

@[simp] theorem State.afterTicks_v (n : Nat) : (s.afterTicks n).v = s.v := rfl
@[simp] theorem State.afterTicks_i (n : Nat) : (s.afterTicks n).i = s.i := rfl
@[simp] theorem State.afterTicks_dt (n : Nat) : (s.afterTicks n).dt = countdown n s.dt := rfl
@[simp] theorem State.afterTicks_st (n : Nat) : (s.afterTicks n).st = countdown n s.st := rfl
@[simp] theorem State.afterTicks_pc (n : Nat) : (s.afterTicks n).pc = s.pc := rfl
@[simp] theorem State.afterTicks_sp (n : Nat) : (s.afterTicks n).sp = s.sp := rfl
@[simp] theorem State.afterTicks_stack (n : Nat) : (s.afterTicks n).stack = s.stack := rfl
@[simp] theorem State.afterTicks_mem (n : Nat) : (s.afterTicks n).mem = s.mem := rfl
@[simp] theorem State.afterTicks_disp (n : Nat) : (s.afterTicks n).disp = s.disp := rfl
@[simp] theorem State.afterTicks_await (n : Nat) : (s.afterTicks n).await = s.await := rfl
@[simp] theorem State.afterTicks_fault (n : Nat) : (s.afterTicks n).fault = s.fault := rfl
@[simp] theorem State.afterTicks_effects (n : Nat) : (s.afterTicks n).effects = s.effects := rfl
@[simp] theorem State.afterTicks_inputs (n : Nat) : (s.afterTicks n).inputs = s.inputs := rfl
@[simp] theorem State.afterTicks_turns (n : Nat) : (s.afterTicks n).turns = s.turns := rfl
@[simp] theorem State.afterTicks_turnCount (n : Nat) : (s.afterTicks n).turnCount = s.turnCount := rfl

/-! ### `State.beginTurn` -/

@[simp] theorem State.beginTurn_v : (s.beginTurn).v = s.v := rfl
@[simp] theorem State.beginTurn_i : (s.beginTurn).i = s.i := rfl
@[simp] theorem State.beginTurn_dt : (s.beginTurn).dt = countdown s.nextTurn.ticks s.dt := rfl
@[simp] theorem State.beginTurn_st : (s.beginTurn).st = countdown s.nextTurn.ticks s.st := rfl
@[simp] theorem State.beginTurn_pc : (s.beginTurn).pc = s.pc := rfl
@[simp] theorem State.beginTurn_sp : (s.beginTurn).sp = s.sp := rfl
@[simp] theorem State.beginTurn_stack : (s.beginTurn).stack = s.stack := rfl
@[simp] theorem State.beginTurn_mem : (s.beginTurn).mem = s.mem := rfl
@[simp] theorem State.beginTurn_disp : (s.beginTurn).disp = s.disp := rfl
@[simp] theorem State.beginTurn_await : (s.beginTurn).await = s.await := rfl
@[simp] theorem State.beginTurn_fault : (s.beginTurn).fault = s.fault := rfl
@[simp] theorem State.beginTurn_effects : (s.beginTurn).effects = s.effects := rfl
@[simp] theorem State.beginTurn_inputs : (s.beginTurn).inputs = s.nextTurn.inputs := rfl
@[simp] theorem State.beginTurn_turns : (s.beginTurn).turns = s.turns.tail := rfl
@[simp] theorem State.beginTurn_turnCount : (s.beginTurn).turnCount = s.turnCount + 1 := rfl

end Sys2Proof.Machine
end

