-- ==== Sys2Proof/Laws/Ops.lean ====
section
/-! SUPPORT. What each shared operation can do: the bounds check, the call stack, the end of an instruction, raising an
error, and the registers loaded and stored in bulk. -/

namespace Sys2Proof.Machine

/-- The check finds an address outside memory exactly when the range leaves memory (R54). -/
theorem checkRange_eq (base count : Nat) :
    checkRange base count = if count ≠ 0 ∧ 4096 < base + count then some (max base 4096) else none := by
  unfold checkRange Config.memSize
  split <;> split <;> first | rfl | (exfalso; omega)

theorem checkRange_of_inside {base count : Nat} (h : count = 0 ∨ base + count ≤ 4096) :
    checkRange base count = none := by
  rw [checkRange_eq, if_neg (by omega)]

theorem checkRange_of_outside {base count : Nat} (h : count ≠ 0) (h' : 4096 < base + count) :
    checkRange base count = some (max base 4096) := by
  rw [checkRange_eq, if_pos ⟨h, h'⟩]

@[simp] theorem done_eq (d : Bool) (s : State) :
    done d s = .next { s with effects := some { displayChanged := d, waitingForKey := s.await } } := rfl

@[simp] theorem raise_eq (e : Error) (s : State) : raise e s = .next { s with fault := some e, effects := none } := rfl

/-- Inside memory the check lets the rest of the instruction run. -/
theorem withRange_of_inside {base count : Nat} (s : State) (rest : Host.Outcome State Fault Refusal)
    (h : count = 0 ∨ base + count ≤ 4096) : withRange base count s rest = rest := by
  rw [withRange, checkRange_of_inside h]

/-- Outside memory the check raises the error before anything is written (R214). -/
theorem withRange_of_outside {base count : Nat} (s : State) (rest : Host.Outcome State Fault Refusal)
    (h : count ≠ 0) (h' : 4096 < base + count) :
    withRange base count s rest = .next { s with fault := some (.memoryOutOfBounds (max base 4096)), effects := none } := by
  rw [withRange, checkRange_of_outside h h']; rfl

/-- Everything the checked rest of an instruction can answer. -/
theorem withRange_cases (base count : Nat) (s : State) (rest : Host.Outcome State Fault Refusal) :
    ((count = 0 ∨ base + count ≤ 4096) ∧ withRange base count s rest = rest) ∨
    (count ≠ 0 ∧ 4096 < base + count ∧ withRange base count s rest =
      .next { s with fault := some (.memoryOutOfBounds (max base 4096)), effects := none }) := by
  by_cases h : count = 0 ∨ base + count ≤ 4096
  · exact .inl ⟨h, withRange_of_inside s rest h⟩
  · exact .inr ⟨by omega, by omega, withRange_of_outside s rest (by omega) (by omega)⟩

/-- A push succeeds exactly below 16 live entries, and then writes one entry and `SP` (R28). -/
theorem push?_eq (s : State) (w : Word) :
    (∃ k : Fin 16, s.sp.val = k.val ∧
      s.push? w = some { s with stack := s.stack.set k.val w k.isLt, sp := k.succ }) ∨
    (s.sp.val = 16 ∧ s.push? w = none) := by
  have hs : s.sp.val < 17 := s.sp.isLt
  by_cases h : s.sp.val < 16
  · exact .inl ⟨⟨s.sp.val, h⟩, rfl, by simp [State.push?, h]⟩
  · exact .inr ⟨by omega, by simp [State.push?, h]⟩

/-- A pop succeeds exactly above 0 live entries, answers the top entry and writes `SP` alone (R28, R105). -/
theorem pop?_eq (s : State) :
    (∃ k : Fin 16, s.sp.val = k.val + 1 ∧ s.pop? = some (s.stack[k], { s with sp := k.castSucc })) ∨
    (s.sp.val = 0 ∧ s.pop? = none) := by
  have hs : s.sp.val < 17 := s.sp.isLt
  by_cases h : 0 < s.sp.val
  · refine .inl ⟨⟨s.sp.val - 1, by omega⟩, (Nat.sub_add_cancel h).symm, ?_⟩
    simp [State.pop?, h]
  · exact .inr ⟨by omega, by simp [State.pop?, h]⟩

theorem getElem_loadedRegs (v : Vector Byte 16) (m : Memory) (base : Nat) (x r : RegIdx) :
    (loadedRegs v m base x)[r] = if r ≤ x then m.read (base + r.val) else v[r] := by
  simp [loadedRegs]

theorem length_storedRegs (v : Vector Byte 16) (x : RegIdx) : (storedRegs v x).length = x.val + 1 := by
  have := x.isLt
  simp [storedRegs]

theorem getElem_storedRegs (v : Vector Byte 16) (x r : RegIdx) (h : r.val < (storedRegs v x).length) :
    (storedRegs v x)[r.val] = v[r] := by
  simp [storedRegs]

/-- A register write changes that register alone; the reads are in the form simp leaves them. -/
theorem getElem_setReg (v : Vector Byte 16) (x r : RegIdx) (b : Byte) :
    (v.set x.val b)[r.val] = if x = r then b else v[r.val] := by
  rw [Vector.getElem_set]
  exact if_congr Fin.ext_iff.symm rfl rfl

/-- After a flag and a result are written, the result stands in its register, also when that is `V[0xF]` (R131). -/
theorem getElem_setFlagThen_result (s : State) (f : Bool) (x : RegIdx) (b : Byte) : (s.setFlagThen f x b).v[x.val] = b := by
  simp

/-- After a flag and a result are written, the flag stands in `V[0xF]` unless that is the result's register (R131). -/
theorem getElem_setFlagThen_flag (s : State) (f : Bool) {x : RegIdx} (b : Byte) (hx : x ≠ 0xF) :
    (s.setFlagThen f x b).v[15] = flagByte f := by
  have h := getElem_setReg (s.setFlag f).v x 0xF b
  rw [if_neg hx] at h
  exact h.trans (by simp)

/-- Every other register is unchanged (R131). -/
theorem getElem_setFlagThen_other (s : State) (f : Bool) {x r : RegIdx} (b : Byte) (hx : r ≠ x) (hr : r ≠ 0xF) :
    (s.setFlagThen f x b).v[r.val] = s.v[r.val] := by
  have h := getElem_setReg (s.setFlag f).v x r b
  have h' := getElem_setReg s.v 0xF r (flagByte f)
  rw [if_neg (Ne.symm hx)] at h
  rw [if_neg (Ne.symm hr)] at h'
  exact h.trans h'

end Sys2Proof.Machine
end

