-- ==== Sys2Proof/Laws/PerInstr.lean ====
section
/-! SUPPORT. The family TableRow: the word of every instruction holds the fixed bits of its row of opcode_table.json. -/

namespace Sys2Proof.Laws.TableRow

/-- The fixed bit ranges of each row of opcode_table.json: high bit, low bit, value. -/
def fixedBits : Instr → List (Nat × Nat × Nat)
  | .cls => [(15, 0, 224)]
  | .ret => [(15, 0, 238)]
  | .sys _ => [(15, 12, 0)]
  | .jp _ => [(15, 12, 1)]
  | .call _ => [(15, 12, 2)]
  | .seImm _ _ => [(15, 12, 3)]
  | .sneImm _ _ => [(15, 12, 4)]
  | .seReg _ _ => [(15, 12, 5), (3, 0, 0)]
  | .ldImm _ _ => [(15, 12, 6)]
  | .addImm _ _ => [(15, 12, 7)]
  | .ldReg _ _ => [(15, 12, 8), (3, 0, 0)]
  | .or _ _ => [(15, 12, 8), (3, 0, 1)]
  | .and _ _ => [(15, 12, 8), (3, 0, 2)]
  | .xor _ _ => [(15, 12, 8), (3, 0, 3)]
  | .addReg _ _ => [(15, 12, 8), (3, 0, 4)]
  | .sub _ _ => [(15, 12, 8), (3, 0, 5)]
  | .shr _ _ => [(15, 12, 8), (3, 0, 6)]
  | .subn _ _ => [(15, 12, 8), (3, 0, 7)]
  | .shl _ _ => [(15, 12, 8), (3, 0, 14)]
  | .sneReg _ _ => [(15, 12, 9), (3, 0, 0)]
  | .ldI _ => [(15, 12, 10)]
  | .jpV0 _ => [(15, 12, 11)]
  | .rnd _ _ => [(15, 12, 12)]
  | .drw _ _ _ => [(15, 12, 13)]
  | .skp _ => [(15, 12, 14), (7, 0, 158)]
  | .sknp _ => [(15, 12, 14), (7, 0, 161)]
  | .ldVxDt _ => [(15, 12, 15), (7, 0, 7)]
  | .ldK _ => [(15, 12, 15), (7, 0, 10)]
  | .ldDtVx _ => [(15, 12, 15), (7, 0, 21)]
  | .ldStVx _ => [(15, 12, 15), (7, 0, 24)]
  | .addI _ => [(15, 12, 15), (7, 0, 30)]
  | .ldF _ => [(15, 12, 15), (7, 0, 41)]
  | .ldB _ => [(15, 12, 15), (7, 0, 51)]
  | .storeRegs _ => [(15, 12, 15), (7, 0, 85)]
  | .readRegs _ => [(15, 12, 15), (7, 0, 101)]

/-- A word holds a value in a range of bits. -/
def Holds (w : Word) (f : Nat × Nat × Nat) : Prop := w.toNat / 2 ^ f.2.1 % 2 ^ (f.1 + 1 - f.2.1) = f.2.2

/-- The word of an instruction holds the fixed bits of its row. -/
def Statement (i : Instr) : Prop := ∀ f ∈ fixedBits i, Holds (encode i) f

theorem one {w : Word} {f : Nat × Nat × Nat} (h : Holds w f) : ∀ g ∈ [f], Holds w g :=
  List.forall_mem_singleton.2 h

theorem two {w : Word} {f g : Nat × Nat × Nat} (h : Holds w f) (h' : Holds w g) : ∀ k ∈ [f, g], Holds w k :=
  List.forall_mem_cons.2 ⟨h, one h'⟩

theorem family_encodeNNN {op : Nat} (h : op < 16) (nnn : Addr12) : Holds (encodeNNN op nnn) (15, 12, op) := by
  have := nnn.isLt
  simp only [Holds, encodeNNN_toNat h]; omega

theorem family_encodeXKK {op : Nat} (h : op < 16) (x : RegIdx) (kk : Byte) : Holds (encodeXKK op x kk) (15, 12, op) := by
  have := x.isLt
  have := kk.isLt
  simp only [Holds, encodeXKK_toNat h]; omega

theorem lowByte_encodeXKK {op : Nat} (h : op < 16) (x : RegIdx) (kk : Byte) :
    Holds (encodeXKK op x kk) (7, 0, kk.toNat) := by
  have := kk.isLt
  simp only [Holds, encodeXKK_toNat h]; omega

theorem family_encodeXYN {op : Nat} (h : op < 16) (x y : RegIdx) (n : Fin 16) :
    Holds (encodeXYN op x y n) (15, 12, op) := by
  have := x.isLt
  have := y.isLt
  have := n.isLt
  simp only [Holds, encodeXYN_toNat h]; omega

theorem lowNibble_encodeXYN {op : Nat} (h : op < 16) (x y : RegIdx) (n : Fin 16) :
    Holds (encodeXYN op x y n) (3, 0, n.val) := by
  have := n.isLt
  simp only [Holds, encodeXYN_toNat h]; omega

theorem cls : Statement (.cls) := one rfl

theorem ret : Statement (.ret) := one rfl

theorem sys (nnn : Addr12) : Statement (.sys nnn) :=
  one (family_encodeNNN (by decide) nnn)

theorem jp (nnn : Addr12) : Statement (.jp nnn) :=
  one (family_encodeNNN (by decide) nnn)

theorem call (nnn : Addr12) : Statement (.call nnn) :=
  one (family_encodeNNN (by decide) nnn)

theorem seImm (x : RegIdx) (kk : Byte) : Statement (.seImm x kk) :=
  one (family_encodeXKK (by decide) x kk)

theorem sneImm (x : RegIdx) (kk : Byte) : Statement (.sneImm x kk) :=
  one (family_encodeXKK (by decide) x kk)

theorem seReg (x y : RegIdx) : Statement (.seReg x y) :=
  two (family_encodeXYN (by decide) x y _) (lowNibble_encodeXYN (by decide) x y _)

theorem ldImm (x : RegIdx) (kk : Byte) : Statement (.ldImm x kk) :=
  one (family_encodeXKK (by decide) x kk)

theorem addImm (x : RegIdx) (kk : Byte) : Statement (.addImm x kk) :=
  one (family_encodeXKK (by decide) x kk)

theorem ldReg (x y : RegIdx) : Statement (.ldReg x y) :=
  two (family_encodeXYN (by decide) x y _) (lowNibble_encodeXYN (by decide) x y _)

theorem or (x y : RegIdx) : Statement (.or x y) :=
  two (family_encodeXYN (by decide) x y _) (lowNibble_encodeXYN (by decide) x y _)

theorem and (x y : RegIdx) : Statement (.and x y) :=
  two (family_encodeXYN (by decide) x y _) (lowNibble_encodeXYN (by decide) x y _)

theorem xor (x y : RegIdx) : Statement (.xor x y) :=
  two (family_encodeXYN (by decide) x y _) (lowNibble_encodeXYN (by decide) x y _)

theorem addReg (x y : RegIdx) : Statement (.addReg x y) :=
  two (family_encodeXYN (by decide) x y _) (lowNibble_encodeXYN (by decide) x y _)

theorem sub (x y : RegIdx) : Statement (.sub x y) :=
  two (family_encodeXYN (by decide) x y _) (lowNibble_encodeXYN (by decide) x y _)

theorem shr (x y : RegIdx) : Statement (.shr x y) :=
  two (family_encodeXYN (by decide) x y _) (lowNibble_encodeXYN (by decide) x y _)

theorem subn (x y : RegIdx) : Statement (.subn x y) :=
  two (family_encodeXYN (by decide) x y _) (lowNibble_encodeXYN (by decide) x y _)

theorem shl (x y : RegIdx) : Statement (.shl x y) :=
  two (family_encodeXYN (by decide) x y _) (lowNibble_encodeXYN (by decide) x y _)

theorem sneReg (x y : RegIdx) : Statement (.sneReg x y) :=
  two (family_encodeXYN (by decide) x y _) (lowNibble_encodeXYN (by decide) x y _)

theorem ldI (nnn : Addr12) : Statement (.ldI nnn) :=
  one (family_encodeNNN (by decide) nnn)

theorem jpV0 (nnn : Addr12) : Statement (.jpV0 nnn) :=
  one (family_encodeNNN (by decide) nnn)

theorem rnd (x : RegIdx) (kk : Byte) : Statement (.rnd x kk) :=
  one (family_encodeXKK (by decide) x kk)

theorem drw (x y : RegIdx) (n : RowCount) : Statement (.drw x y n) :=
  one (family_encodeXYN (by decide) x y n)

theorem skp (x : RegIdx) : Statement (.skp x) :=
  two (family_encodeXKK (by decide) x _) (lowByte_encodeXKK (by decide) x _)

theorem sknp (x : RegIdx) : Statement (.sknp x) :=
  two (family_encodeXKK (by decide) x _) (lowByte_encodeXKK (by decide) x _)

theorem ldVxDt (x : RegIdx) : Statement (.ldVxDt x) :=
  two (family_encodeXKK (by decide) x _) (lowByte_encodeXKK (by decide) x _)

theorem ldK (x : RegIdx) : Statement (.ldK x) :=
  two (family_encodeXKK (by decide) x _) (lowByte_encodeXKK (by decide) x _)

theorem ldDtVx (x : RegIdx) : Statement (.ldDtVx x) :=
  two (family_encodeXKK (by decide) x _) (lowByte_encodeXKK (by decide) x _)

theorem ldStVx (x : RegIdx) : Statement (.ldStVx x) :=
  two (family_encodeXKK (by decide) x _) (lowByte_encodeXKK (by decide) x _)

theorem addI (x : RegIdx) : Statement (.addI x) :=
  two (family_encodeXKK (by decide) x _) (lowByte_encodeXKK (by decide) x _)

theorem ldF (x : RegIdx) : Statement (.ldF x) :=
  two (family_encodeXKK (by decide) x _) (lowByte_encodeXKK (by decide) x _)

theorem ldB (x : RegIdx) : Statement (.ldB x) :=
  two (family_encodeXKK (by decide) x _) (lowByte_encodeXKK (by decide) x _)

theorem storeRegs (x : RegIdx) : Statement (.storeRegs x) :=
  two (family_encodeXKK (by decide) x _) (lowByte_encodeXKK (by decide) x _)

theorem readRegs (x : RegIdx) : Statement (.readRegs x) :=
  two (family_encodeXKK (by decide) x _) (lowByte_encodeXKK (by decide) x _)

end Sys2Proof.Laws.TableRow
end

