-- ==== Sys2Proof/Laws/Screen.lean ====
section
/-! SUPPORT. The display: what toggling a cell, drawing a sprite row and drawing a sprite do to each cell, and when they
report a collision. -/

namespace Sys2Proof.Machine

theorem Display.pixel_toggle (d : Display) (c c' : Fin Config.displayW) (r r' : Fin Config.displayH) :
    (d.toggle c r).pixel c' r' = if c = c' ∧ r = r' then !d.pixel c' r' else d.pixel c' r' := by
  simp only [Display.pixel, Display.toggle, Fin.getElem_fin, Vector.getElem_set, Fin.ext_iff]
  by_cases hc : c.val = c'.val
  · by_cases hr : r.val = r'.val
    · have h1 := Fin.ext hc; have h2 := Fin.ext hr; subst h1; subst h2; simp
    · have h1 := Fin.ext hc; subst h1; simp [hr]
  · simp [hc]

theorem Display.pixel_clear (c : Fin Config.displayW) (r : Fin Config.displayH) : Display.clear.pixel c r = false := by
  simp [Display.pixel, Display.clear]

/-- What a set of cells `hit`, each toggled once, does to a canvas. -/
structure Canvas.Toggled (p q : Canvas) (hit : Fin Config.displayW → Fin Config.displayH → Bool) : Prop where
  pixel     : ∀ c r, q.disp.pixel c r = (p.disp.pixel c r ^^ hit c r)
  collision : q.collision = true ↔ p.collision = true ∨ ∃ c r, hit c r = true ∧ p.disp.pixel c r = true

theorem Canvas.Toggled.refl (p : Canvas) {hit} (h : ∀ c r, hit c r = false) : p.Toggled p hit :=
  ⟨fun c r => by simp [h], by simp [h]⟩

/-- Toggling disjoint sets of cells one after the other toggles their union. -/
theorem Canvas.Toggled.trans {p q u : Canvas} {a b : Fin Config.displayW → Fin Config.displayH → Bool}
    (h₁ : p.Toggled q a) (h₂ : q.Toggled u b) (hab : ∀ c r, a c r = true → b c r = false) :
    p.Toggled u fun c r => a c r || b c r := by
  refine ⟨fun c r => ?_, ?_⟩
  · rw [h₂.pixel, h₁.pixel]
    have := hab c r
    cases ha : a c r <;> cases hb : b c r <;> simp_all
  · rw [h₂.collision, h₁.collision]
    constructor
    · rintro ((h | ⟨c, r, h, hp⟩) | ⟨c, r, h, hp⟩)
      · exact .inl h
      · exact .inr ⟨c, r, by simp [h], hp⟩
      · refine .inr ⟨c, r, by simp [h], ?_⟩
        have := hab c r
        rw [h₁.pixel] at hp
        cases ha : a c r <;> simp_all
    · rintro (h | ⟨c, r, h, hp⟩)
      · exact .inl (.inl h)
      · cases ha : a c r
        · exact .inr ⟨c, r, by simpa [ha] using h, by rw [h₁.pixel, hp, ha]; rfl⟩
        · exact .inl (.inr ⟨c, r, ha, hp⟩)

theorem Canvas.Toggled.congr {p q : Canvas} {a b : Fin Config.displayW → Fin Config.displayH → Bool}
    (h : p.Toggled q a) (hab : ∀ c r, a c r = b c r) : p.Toggled q b := by
  have : a = b := funext fun c => funext fun r => hab c r
  exact this ▸ h

/-- The cell a pixel of a sprite row falls on. -/
def pixelHit (b : Byte) (cx : Nat) (row : Fin Config.displayH) (k : Nat) (c : Fin Config.displayW)
    (r : Fin Config.displayH) : Bool :=
  b.getLsbD (7 - k) && decide (spriteCol cx k = c ∧ row = r)

theorem drawPixel_toggled (b : Byte) (cx : Nat) (row : Fin Config.displayH) (p : Canvas) (k : Nat) :
    p.Toggled (drawPixel b cx row p k) (pixelHit b cx row k) := by
  unfold drawPixel
  split
  · rename_i hb
    refine ⟨fun c r => ?_, ?_⟩
    · simp only [Display.pixel_toggle, pixelHit, hb, Bool.true_and]
      by_cases h : spriteCol cx k = c ∧ row = r <;> simp [h]
    · simp only [Bool.or_eq_true, pixelHit, hb, Bool.true_and, decide_eq_true_eq]
      exact or_congr_right
        ⟨fun h => ⟨_, _, ⟨rfl, rfl⟩, h⟩, fun ⟨_, _, ⟨h1, h2⟩, h⟩ => by subst h1; subst h2; exact h⟩
  · exact Canvas.Toggled.refl p fun c r => by simp_all [pixelHit]

/-- The cells a sprite row falls on, by column: `k` columns right of `cx`, with wraparound. -/
def rowHit (b : Byte) (cx : Nat) (row : Fin Config.displayH) (c : Fin Config.displayW) (r : Fin Config.displayH) : Bool :=
  decide (row = r ∧ (c.val + 64 - cx) % 64 < 8) && b.getLsbD (7 - (c.val + 64 - cx) % 64)

theorem spriteCol_eq_iff {cx k : Nat} (hcx : cx < 64) (hk : k < 8) (c : Fin Config.displayW) :
    spriteCol cx k = c ↔ (c.val + 64 - cx) % 64 = k := by
  have := c.isLt
  have hv : (spriteCol cx k).val = (cx + k) % 64 := rfl
  have hc : c.val < 64 := c.isLt
  rw [Fin.ext_iff, hv]
  omega

theorem drawRow_toggled (b : Byte) {cx : Nat} (hcx : cx < 64) (row : Fin Config.displayH) (p : Canvas) :
    p.Toggled (drawRow b cx row p) (rowHit b cx row) := by
  have hit_some (k : Nat) (hk : k < 8) (c r) :
      pixelHit b cx row k c r = (rowHit b cx row c r && decide ((c.val + 64 - cx) % 64 = k)) := by
    simp only [pixelHit, rowHit, spriteCol_eq_iff hcx hk]
    by_cases h : (c.val + 64 - cx) % 64 = k
    · simp [h, hk, Bool.and_comm]
    · simp [h]
  have upto (n : Nat) (hn : n ≤ 8) : p.Toggled ((List.range n).foldl (drawPixel b cx row) p)
      fun c r => rowHit b cx row c r && decide ((c.val + 64 - cx) % 64 < n) := by
    induction n with
    | zero => exact Canvas.Toggled.refl p fun c r => by simp
    | succ n ih =>
      rw [List.range_succ, List.foldl_append]
      refine ((ih (by omega)).trans (drawPixel_toggled b cx row _ n) fun c r h => ?_).congr fun c r => ?_
      · simp only [Bool.and_eq_true, decide_eq_true_eq] at h
        rw [hit_some n (by omega)]
        simp [show (c.val + 64 - cx) % 64 ≠ n by omega]
      · rw [hit_some n (by omega)]
        cases rowHit b cx row c r
        · simp
        · simp only [Bool.true_and, ← Bool.decide_or, decide_eq_decide]; omega
  refine (upto 8 (Nat.le_refl 8)).congr fun c r => ?_
  cases h : rowHit b cx row c r
  · simp
  · simp only [rowHit, Bool.and_eq_true, decide_eq_true_eq] at h
    simp [h.1.2]

/-- The cells a sprite falls on: row `j` of the sprite in row `top + j` of the display, clipped at the bottom. -/
def spriteHit (bs : List Byte) (cx top : Nat) (c : Fin Config.displayW) (r : Fin Config.displayH) : Bool :=
  decide (top ≤ r.val ∧ r.val < top + bs.length ∧ (c.val + 64 - cx) % 64 < 8) &&
    (bs.getD (r.val - top) 0#8).getLsbD (7 - (c.val + 64 - cx) % 64)

/-- What drawing a sprite does to every cell, and when it reports a collision (R181). -/
theorem drawSprite_toggled (bs : List Byte) {cx : Nat} (hcx : cx < 64) (top : Nat) (p : Canvas) :
    p.Toggled (drawSprite bs cx top p) (spriteHit bs cx top) := by
  induction bs generalizing top p with
  | nil => exact Canvas.Toggled.refl p fun c r => by simp [spriteHit]
  | cons b bs ih =>
    rw [drawSprite]
    have next (c : Fin Config.displayW) (r : Fin Config.displayH) (hr : top ≠ r.val) :
        spriteHit (b :: bs) cx top c r = spriteHit bs cx (top + 1) c r := by
      simp only [spriteHit, List.length_cons]
      by_cases h : top < r.val
      · have : r.val - top = (r.val - (top + 1)) + 1 := by omega
        rw [this, List.getD_cons_succ]
        congr 1
        simp only [decide_eq_decide]; omega
      · simp [show ¬top ≤ r.val by omega, show ¬top + 1 ≤ r.val by omega]
    split
    · rename_i hrow
      refine ((drawRow_toggled b hcx ⟨top, hrow⟩ p).trans (ih (top + 1) _) fun c r h => ?_).congr fun c r => ?_
      · simp only [rowHit, Bool.and_eq_true, decide_eq_true_eq, Fin.ext_iff] at h
        simp [spriteHit, show ¬top + 1 ≤ r.val by omega]
      · by_cases hr : top = r.val
        · simp [spriteHit, rowHit, Fin.ext_iff, ← hr]
        · simp [rowHit, Fin.ext_iff, hr, next c r hr]
    · rename_i hrow
      refine (ih (top + 1) p).congr fun c r => (next c r ?_).symm
      have := r.isLt
      omega

end Sys2Proof.Machine
end

