-- ==== Sys2Proof/Laws/Step.lean ====
section
/-! SUPPORT. The step said once: what the fetch answers, and the three things a step can do. -/

namespace Sys2Proof.Machine

theorem countdown_toNat (n : Nat) (b : Byte) : (countdown n b).toNat = b.toNat - n := by
  have := b.isLt
  simp only [countdown, BitVec.toNat_ofNat]; omega

theorem countdown_zero (b : Byte) : countdown 0 b = b := by
  apply BitVec.eq_of_toNat_eq
  rw [countdown_toNat, Nat.sub_zero]

theorem countdown_countdown (m n : Nat) (b : Byte) : countdown n (countdown m b) = countdown (m + n) b := by
  apply BitVec.eq_of_toNat_eq
  rw [countdown_toNat, countdown_toNat, countdown_toNat, Nat.sub_sub]

/-- Ticks add up (R222). -/
theorem State.afterTicks_afterTicks (s : State) (m n : Nat) : (s.afterTicks m).afterTicks n = s.afterTicks (m + n) := by
  simp [State.afterTicks, countdown_countdown]

/-- Storing a word keeps the canonical form of memory, wherever the word is stored. -/
theorem Memory.wf_storeWord {m : Memory} (h : m.wf = true) (a : Nat) (w : Word) : (m.storeWord a w).wf = true := by
  unfold Memory.storeWord
  by_cases ha : a + 2 ≤ 4096
  · rw [checkRange_of_inside (.inr ha)]
    exact Memory.wf_writeBytes h a _ ha
  · rw [checkRange_of_outside (by omega) (by omega)]
    exact h

/-- Outside memory the fetch raises before anything is decoded (R212). -/
theorem State.fetch_of_outside {s : State} (h : 4096 ≤ s.pc.toNat + 1) :
    s.fetch = .error (.memoryOutOfBounds (max s.pc.toNat 4096)) := by
  rw [State.fetch, checkRange_of_outside (by omega) (by omega)]

/-- Inside memory the fetch decodes the word at `PC`. -/
theorem State.fetch_of_inside {s : State} (h : s.pc.toNat + 1 < 4096) :
    s.fetch = match decode s.fetchWord with
      | .error f => .error (.decodeError f.word)
      | .ok i => .ok i := by
  rw [State.fetch, checkRange_of_inside (by omega)]; rfl

/-- The fetch answers an instruction only from inside memory, and then the one its word decodes to. -/
theorem State.fetch_eq_ok_iff (s : State) (i : Instr) :
    s.fetch = .ok i ↔ s.pc.toNat + 1 < 4096 ∧ decode s.fetchWord = .ok i := by
  by_cases h : s.pc.toNat + 1 < 4096
  · rw [State.fetch_of_inside h]
    cases hd : decode s.fetchWord <;> simp [h]
  · rw [State.fetch_of_outside (by omega)]
    simp [h]

/-- The fetch reads `PC` and memory alone. -/
theorem State.fetch_congr {s t : State} (hp : t.pc = s.pc) (hm : ∀ a, t.mem.read a = s.mem.read a) :
    t.fetch = s.fetch := by
  simp [State.fetch, hp, hm]

@[simp] theorem State.fetch_beginTurn (s : State) : s.beginTurn.fetch = s.fetch := rfl

/-- Everything a step can do: it stops, or it raises the fetch's error, or it applies the instruction fetched. -/
theorem step_cases (s : State) :
    (∃ e, s.fault = some e ∧ step s = .fault (.stopped e)) ∨
    (s.fault = none ∧ ∃ e, s.fetch = .error e ∧ step s = .next (s.beginTurn.raised e)) ∨
    (s.fault = none ∧ ∃ i, s.fetch = .ok i ∧ step s = exec i s.beginTurn.advance) := by
  cases hf : s.fault with
  | some e => exact .inl ⟨e, rfl, by simp [step, hf]⟩
  | none =>
    cases hi : s.fetch with
    | error e => exact .inr (.inl ⟨rfl, e, rfl, by simp [step, hf, cycle, hi, State.raised]⟩)
    | ok i => exact .inr (.inr ⟨rfl, i, rfl, by simp [step, hf, cycle, hi]⟩)

end Sys2Proof.Machine
end

