-- ==== Sys2Proof/Laws/Stores.lean ====
section
/-! SUPPORT. What every address reads as after the stores of `StoreRegs` and of `LdB`. -/

namespace Sys2Proof.Machine

/-- A read at any address after the stores of `StoreRegs` (R164). -/
theorem read_writeBytes_storedRegs (s : State) (x : RegIdx) (a : Nat) :
    (s.mem.writeBytes s.i.toNat (storedRegs s.v x)).read a = byteAfterStoreRegs s x a := by
  have hl := length_storedRegs s.v x
  unfold byteAfterStoreRegs
  split
  · rename_i h
    have hk : a - s.i.toNat < (storedRegs s.v x).length := by omega
    have hr : a - s.i.toNat < 16 := by omega
    have hg := getElem_storedRegs s.v x ⟨a - s.i.toNat, hr⟩ hk
    have ha : s.i.toNat + (a - s.i.toNat) = a := by omega
    have hf : (Fin.ofNat 16 (a - s.i.toNat) : RegIdx) = ⟨a - s.i.toNat, hr⟩ := by
      ext; simp only [Fin.ofNat]; omega
    rw [← ha, Memory.read_writeBytes_inside _ _ _ hk, ha]
    exact hg.trans (congrArg (fun r : RegIdx => s.v[r]) hf).symm
  · exact Memory.read_writeBytes_outside _ _ _ (by omega)

theorem trunc8_natCast (n : Nat) : trunc8 (n : Int) = BitVec.ofNat 8 n := by
  apply BitVec.eq_of_toNat_eq
  rw [trunc8_toNat, BitVec.toNat_ofNat]; omega

/-- A read at any address after the stores of `LdB` (R163). -/
theorem read_writeBytes_decimalDigits (s : State) (x : RegIdx) (a : Nat) :
    (s.mem.writeBytes s.i.toNat (decimalDigits s.v[x])).read a = byteAfterLdB s x a := by
  have hl : (decimalDigits s.v[x]).length = 3 := rfl
  have hin (k : Nat) (hk : k < 3) := Memory.read_writeBytes_inside s.mem s.i.toNat (decimalDigits s.v[x]) (hl ▸ hk)
  unfold byteAfterLdB
  split
  · subst a; exact (hin 0 (by decide)).trans (trunc8_natCast _)
  · split
    · subst a; exact (hin 1 (by decide)).trans (trunc8_natCast _)
    · split
      · subst a; exact (hin 2 (by decide)).trans (trunc8_natCast _)
      · exact Memory.read_writeBytes_outside _ _ _ (by omega)

end Sys2Proof.Machine
end

