-- ==== Sys2Proof/Tests/Slice0.lean ====
section
/-! SUPPORT. Small tests: the well-formedness smoke, every constructor's decoding from a word written out from R80, one or
two steps' worth of results per instruction (expected values from 95_test_vectors.md and the rules' examples, named in
each comment), and a witness of the hypotheses of every statement that has some. -/

namespace Sys2Proof.Tests

open Sys2Proof Sys2Proof.Machine

/-! ### Well-formedness (R84) and decoding (R76 to R80) -/

theorem test_wellFormed_refuses_sys_0E0 : (Instr.sys 0x0E0#12).wellFormed = false := by decide

theorem test_wellFormed_refuses_sys_0EE : (Instr.sys 0x0EE#12).wellFormed = false := by decide

theorem test_wellFormed_accepts_sys_1E0 : (Instr.sys 0x1E0#12).wellFormed = true := by decide

/-- DC1 to DC7 of 95_test_vectors.md. -/
theorem test_decode_zero_family :
    decodeTableWord 16 0x00E0 = some .cls ∧ decodeTableWord 16 0x00EE = some .ret ∧
    decodeTableWord 16 0x0000 = some (.sys 0x000#12) ∧ decodeTableWord 16 0x01E0 = some (.sys 0x1E0#12) := by decide

/-- Bit by bit from R80: `0001` `0010` `0011` `0100` is `JP 234`, and so on through the address families. -/
theorem test_decode_address_families :
    decodeTableWord 16 0b0001001000110100 = some (.jp 0x234#12) ∧
    decodeTableWord 16 0b0010101010111100 = some (.call 0xABC#12) ∧
    decodeTableWord 16 0b1010000100100011 = some (.ldI 0x123#12) ∧
    decodeTableWord 16 0b1011000100100011 = some (.jpV0 0x123#12) := by decide

/-- S1, DC9, DC13, DC14, DC22. -/
theorem test_decode_immediate_families :
    decodeTableWord 16 0b0011101000010010 = some (.seImm 0xA 0x12#8) ∧
    decodeTableWord 16 0b0100111100000000 = some (.sneImm 0xF 0x00#8) ∧
    decodeTableWord 16 0b0110101011111111 = some (.ldImm 0xA 0xFF#8) ∧
    decodeTableWord 16 0b0111111100000001 = some (.addImm 0xF 0x01#8) ∧
    decodeTableWord 16 0b1100000011111111 = some (.rnd 0 0xFF#8) := by decide

/-- DC15, DC16. -/
theorem test_decode_alu_family :
    decodeTableWord 16 0b1000101010110000 = some (.ldReg 0xA 0xB) ∧
    decodeTableWord 16 0b1000101010110001 = some (.or 0xA 0xB) ∧
    decodeTableWord 16 0b1000101010110010 = some (.and 0xA 0xB) ∧
    decodeTableWord 16 0b1000101010110011 = some (.xor 0xA 0xB) ∧
    decodeTableWord 16 0b1000101010110100 = some (.addReg 0xA 0xB) ∧
    decodeTableWord 16 0b1000101010110101 = some (.sub 0xA 0xB) ∧
    decodeTableWord 16 0b1000101010110110 = some (.shr 0xA 0xB) ∧
    decodeTableWord 16 0b1000101010110111 = some (.subn 0xA 0xB) ∧
    decodeTableWord 16 0b1000101010111110 = some (.shl 0xA 0xB) := by decide

/-- S2, DC18, and `0xD5A3` of 95_test_vectors.md. -/
theorem test_decode_register_families :
    decodeTableWord 16 0b0101001000110000 = some (.seReg 2 3) ∧
    decodeTableWord 16 0b1001000100100000 = some (.sneReg 1 2) ∧
    decodeTableWord 16 0b1101010110100011 = some (.drw 5 0xA 3) := by decide

/-- DC24, DC26. -/
theorem test_decode_key_and_misc_families :
    decodeTableWord 16 0b1110000110011110 = some (.skp 1) ∧ decodeTableWord 16 0b1110000110100001 = some (.sknp 1) ∧
    decodeTableWord 16 0b1111000100000111 = some (.ldVxDt 1) ∧ decodeTableWord 16 0b1111000100001010 = some (.ldK 1) ∧
    decodeTableWord 16 0b1111000100010101 = some (.ldDtVx 1) ∧ decodeTableWord 16 0b1111000100011000 = some (.ldStVx 1) ∧
    decodeTableWord 16 0b1111000100011110 = some (.addI 1) ∧ decodeTableWord 16 0b1111000100101001 = some (.ldF 1) ∧
    decodeTableWord 16 0b1111000100110011 = some (.ldB 1) ∧ decodeTableWord 16 0b1111000101010101 = some (.storeRegs 1) ∧
    decodeTableWord 16 0b1111000101100101 = some (.readRegs 1) := by decide

/-- S3, DC11, DC12, DC17, DC19, DC25, DC27. -/
theorem test_decode_refuses :
    ∀ w ∈ [0x5121, 0x512F, 0x8AB8, 0x8AB9, 0x8ABA, 0x8ABB, 0x8ABC, 0x8ABD, 0x8ABF, 0x9121, 0xE19F, 0xE100, 0xEFA2,
      0xF108, 0xF130, 0xF156, 0xF100, 0xFFFF], decodeTableWord 16 w = none := by decide

/-! ### One step on a small state -/

/-- No key, and this random byte. -/
def quiet (random : Byte) : Inputs := { keysDown := Vector.replicate 16 false, newKey := none, random := random }

/-- Reset, with the next step's inputs laid down and no tick before it. -/
def start (inp : Inputs) : State := { State.reset with turns := [⟨0, inp⟩] }

/-- The registers written. -/
def regs (s : State) (l : List (RegIdx × Byte)) : State := l.foldl (fun s p => s.setV p.1 p.2) s

/-- Whether the step with this word at `PC` answers a next state of which the check holds. -/
def after (s : State) (w : Nat) (check : State → Bool) : Bool :=
  match step (s.withFetchWord 16 w) with
  | .next t => check t
  | _ => false

/-- Reset with no inputs to speak of. -/
def blank : State := start (quiet 0#8)

/-- CY1: the fetch is big-endian. -/
theorem test_fetch_is_big_endian :
    (match step { blank with mem := [(0x200, 0x61#8), (0x201, 0x23#8)] } with
      | .next t => t.v[1] == 0x23#8 && t.pc == 0x202#16
      | _ => false) = true := by decide

/-- CY3, CY6: an error of the fetch or of decoding keeps `PC`. -/
theorem test_fetch_and_decode_errors :
    (match step { blank with pc := 0x0FFF#16 } with
      | .next t => t.fault == some (.memoryOutOfBounds 0x1000) && t.pc == 0x0FFF#16
      | _ => false) = true ∧
    after blank 0x5121 (fun t => t.fault == some (.decodeError 0x5121#16) && t.pc == 0x200#16) = true := by decide

/-- CY7, CY8. -/
theorem test_sys :
    after blank 0x0123 (fun t => t.fault == some (.unsupportedInstruction (.sys 0x123#12)) && t.pc == 0x202#16 &&
      (match step t with | .fault (.stopped _) => true | _ => false) &&
      (match tick t with | .fault (.stopped _) => true | _ => false)) = true := by decide

/-- JC2, JC5. -/
theorem test_ret :
    after blank 0x00EE (fun t => t.fault == some .stackUnderflow && t.pc == 0x202#16 && t.sp == 0) = true ∧
    after { blank with sp := 2, stack := (blank.stack.set 0 0x300#16).set 1 0x350#16 } 0x00EE
      (fun t => t.pc == 0x350#16 && t.sp == 1 && t.stack[1] == 0x350#16) = true := by decide

/-- JC1, CY5: a self-jump, and an odd `PC`. -/
theorem test_jp :
    after blank 0x1200 (fun t => t.pc == 0x200#16) = true ∧
    after { blank with pc := 0x201#16 } 0x1234 (fun t => t.pc == 0x234#16) = true := by decide

/-- JC3, JC4. -/
theorem test_call :
    after { blank with sp := 15 } 0x2400 (fun t => t.stack[15] == 0x202#16 && t.sp == 16 && t.pc == 0x400#16) = true ∧
    after { blank with sp := 16 } 0x2400 (fun t => t.fault == some .stackOverflow && t.sp == 16 && t.pc == 0x202#16)
      = true := by decide

/-- SK1 to SK4. -/
theorem test_immediate_skips :
    after (regs blank [(5, 0x42#8)]) 0x3542 (fun t => t.pc == 0x204#16) = true ∧
    after (regs blank [(5, 0x42#8)]) 0x3543 (fun t => t.pc == 0x202#16) = true ∧
    after (regs blank [(5, 0x42#8)]) 0x4542 (fun t => t.pc == 0x202#16) = true ∧
    after (regs blank [(5, 0x42#8)]) 0x4500 (fun t => t.pc == 0x204#16) = true := by decide

/-- SK5, SK7, SK8. -/
theorem test_register_skips :
    after (regs blank [(1, 9#8), (2, 9#8)]) 0x5120 (fun t => t.pc == 0x204#16) = true ∧
    after (regs blank [(1, 9#8), (2, 8#8)]) 0x9120 (fun t => t.pc == 0x204#16) = true ∧
    after blank 0x9110 (fun t => t.pc == 0x202#16) = true := by decide

/-- SK11, on `exec`: a skip wraps `PC` at 16 bits. -/
theorem test_skip_wraps :
    (match exec (.seImm 0 0#8) { blank with pc := 0xFFFE#16 } with
      | .next t => t.pc == 0#16
      | _ => false) = true := by decide

/-- JC6, JC8. -/
theorem test_jpV0 :
    after (regs blank [(0, 0xFF#8)]) 0xBFFF (fun t => t.pc == 0x10FE#16) = true ∧
    after (regs blank [(0, 1#8), (1, 0x50#8)]) 0xB100 (fun t => t.pc == 0x101#16) = true := by decide

/-- AL1, AL2, AL4. -/
theorem test_ldImm_addImm_ldReg :
    after blank 0x6FAB (fun t => t.v[15] == 0xAB#8) = true ∧
    after (regs blank [(1, 0xFF#8), (0xF, 7#8)]) 0x7101 (fun t => t.v[1] == 0#8 && t.v[15] == 7#8) = true ∧
    after (regs blank [(2, 0x99#8)]) 0x8120 (fun t => t.v[1] == 0x99#8) = true := by decide

/-- AL5, AL6, and the example of R137. -/
theorem test_logic :
    after (regs blank [(1, 0x0F#8), (2, 0xF0#8), (0xF, 5#8)]) 0x8121 (fun t => t.v[1] == 0xFF#8 && t.v[15] == 5#8) = true ∧
    after (regs blank [(1, 0x3C#8), (2, 0x0F#8)]) 0x8122 (fun t => t.v[1] == 0x0C#8) = true ∧
    after (regs blank [(1, 0xFF#8), (2, 0x0F#8)]) 0x8123 (fun t => t.v[1] == 0xF0#8) = true := by decide

/-- S4, AL12 (`x = F`), AL13 (`y = F`). -/
theorem test_addReg :
    after (regs blank [(1, 0xFA#8), (2, 0x0A#8)]) 0x8124 (fun t => t.v[1] == 4#8 && t.v[15] == 1#8) = true ∧
    after (regs blank [(0xF, 0x10#8), (2, 0xF5#8)]) 0x8F24 (fun t => t.v[15] == 5#8) = true ∧
    after (regs blank [(1, 1#8), (0xF, 0xFF#8)]) 0x81F4 (fun t => t.v[1] == 0#8 && t.v[15] == 1#8) = true := by decide

/-- AL14, S7, AL16 (`x = F`). -/
theorem test_sub :
    after (regs blank [(1, 7#8), (2, 7#8)]) 0x8125 (fun t => t.v[1] == 0#8 && t.v[15] == 1#8) = true ∧
    after (regs blank [(1, 3#8), (2, 5#8)]) 0x8125 (fun t => t.v[1] == 0xFE#8 && t.v[15] == 0#8) = true ∧
    after (regs blank [(0xF, 3#8), (1, 5#8)]) 0x8F15 (fun t => t.v[15] == 0xFE#8) = true := by decide

/-- AL17, AL18. -/
theorem test_subn :
    after (regs blank [(1, 3#8), (2, 5#8)]) 0x8127 (fun t => t.v[1] == 2#8 && t.v[15] == 1#8) = true ∧
    after (regs blank [(1, 5#8), (2, 3#8)]) 0x8127 (fun t => t.v[1] == 0xFE#8 && t.v[15] == 0#8) = true := by decide

/-- AL21, AL24, AL25, AL26. -/
theorem test_shifts :
    after (regs blank [(1, 0x81#8)]) 0x8126 (fun t => t.v[1] == 0x40#8 && t.v[15] == 1#8) = true ∧
    after (regs blank [(0xF, 3#8)]) 0x8FF6 (fun t => t.v[15] == 1#8) = true ∧
    after (regs blank [(1, 0x81#8)]) 0x812E (fun t => t.v[1] == 2#8 && t.v[15] == 1#8) = true ∧
    after (regs blank [(1, 0x40#8)]) 0x810E (fun t => t.v[1] == 0x80#8 && t.v[15] == 0#8) = true := by decide

/-- AL28. -/
theorem test_rnd : after (start (quiet 0xA7#8)) 0xC30F (fun t => t.v[3] == 7#8) = true := by decide

/-- ME1, ME3, ME6. -/
theorem test_address_register :
    after blank 0xAFFF (fun t => t.i == 0xFFF#16) = true ∧
    after (regs { blank with i := 0xFFFF#16 } [(1, 2#8)]) 0xF11E (fun t => t.i == 1#16) = true ∧
    after (regs blank [(1, 0x10#8)]) 0xF129 (fun t => t.i == 0x50#16) = true := by decide

/-- ME12, ME13. -/
theorem test_ldB :
    after (regs { blank with i := 0xFFD#16 } [(1, 99#8)]) 0xF133
      (fun t => t.mem.read 0xFFD == 0#8 && t.mem.read 0xFFE == 9#8 && t.mem.read 0xFFF == 9#8 && t.mem.wf) = true ∧
    after (regs { blank with i := 0xFFE#16 } [(1, 99#8)]) 0xF133
      (fun t => t.fault == some (.memoryOutOfBounds 0x1000) && t.mem.read 0xFFE == 0#8 && t.pc == 0x202#16) = true := by
  decide

/-- S11 (the store), ME17. -/
theorem test_storeRegs :
    after (regs { blank with i := 0x400#16 } [(0, 0x11#8), (1, 0x22#8), (2, 0x33#8), (3, 0x44#8)]) 0xF355
      (fun t => t.mem.readBytes 0x400 5 == [0x11#8, 0x22#8, 0x33#8, 0x44#8, 0x00#8] && t.i == 0x400#16) = true ∧
    after { blank with i := 0xFF1#16 } 0xFF55 (fun t => t.fault == some (.memoryOutOfBounds 0x1000)) = true := by decide

/-- ME18, ME20. -/
theorem test_readRegs :
    after (regs { blank with i := 0x500#16, mem := [(0x500, 0x77#8)] } [(1, 0x33#8)]) 0xF065
      (fun t => t.v[0] == 0x77#8 && t.v[1] == 0x33#8) = true ∧
    after (regs { blank with i := 0xFFF#16 } [(0, 5#8), (1, 6#8)]) 0xF165
      (fun t => t.v[0] == 5#8 && t.v[1] == 6#8 && t.fault == some (.memoryOutOfBounds 0x1000)) = true := by decide

/-- DR12. -/
theorem test_cls :
    after (regs { blank with disp := blank.disp.toggle 3 4 } [(0xF, 0x42#8)]) 0x00E0
      (fun t => !t.disp.pixel 3 4 && t.v[15] == 0x42#8 && t.effects == some ⟨true, false⟩) = true := by decide

/-- DR3: horizontal wrap. -/
theorem test_drw_wraps_columns :
    after (regs { blank with i := 0x300#16, mem := [(0x300, 0xFF#8)] } [(0, 60#8), (1, 5#8)]) 0xD011
      (fun t => t.disp.pixel 63 5 && t.disp.pixel 3 5 && !t.disp.pixel 4 5 && !t.disp.pixel 59 5 && t.v[15] == 0#8)
      = true := by decide

/-- DR4: rows past the bottom are clipped. -/
theorem test_drw_clips_rows :
    after (regs { blank with i := 0x300#16, mem := [(0x300, 0xFF#8), (0x301, 0xFF#8), (0x302, 0xFF#8)] } [(1, 30#8)]) 0xD013
      (fun t => t.disp.pixel 0 31 && t.disp.pixel 7 30 && !t.disp.pixel 0 0) = true := by decide +kernel

/-- DR7 (collision, with two of its cells lit), DR10 (a clipped row is still bounds-checked). -/
theorem test_drw_collides_and_checks_bounds :
    after { blank with i := 0x300#16, mem := [(0x300, 0x0F#8)], disp := (blank.disp.toggle 3 0).toggle 4 0 } 0xD011
      (fun t => t.disp.pixel 3 0 && !t.disp.pixel 4 0 && t.disp.pixel 7 0 && t.v[15] == 1#8) = true ∧
    after (regs { blank with i := 0xFFF#16 } [(1, 31#8)]) 0xD012
      (fun t => t.fault == some (.memoryOutOfBounds 0x1000) && !t.disp.pixel 0 31) = true := by decide +kernel

/-- Key 3 down. -/
def key3 : Inputs := { quiet 0#8 with keysDown := (Vector.replicate 16 false).set 3 true }

/-- KT1, KT3, KT5, KT6. -/
theorem test_key_skips :
    after (regs (start key3) [(1, 3#8)]) 0xE19E (fun t => t.pc == 0x204#16) = true ∧
    after (regs (start key3) [(1, 3#8)]) 0xE1A1 (fun t => t.pc == 0x202#16) = true ∧
    after (regs (start key3) [(1, 0x13#8)]) 0xE19E (fun t => t.pc == 0x202#16) = true ∧
    after (regs (start key3) [(1, 0x13#8)]) 0xE1A1 (fun t => t.pc == 0x204#16) = true := by decide

/-- KT7, KT8. -/
theorem test_ldK :
    after blank 0xF20A (fun t => t.pc == 0x200#16 && t.await && t.effects == some ⟨false, true⟩) = true ∧
    after { start { quiet 0#8 with newKey := some 0xB } with await := true } 0xF20A
      (fun t => t.v[2] == 0xB#8 && t.pc == 0x202#16 && !t.await) = true := by decide

/-- KT12: one tick before the step; KT10 and KT11: the step alone. -/
theorem test_timers :
    (match step { blank with dt := 0x3C#8, turns := [⟨1, quiet 0#8⟩], mem := [(0x200, 0xF1#8), (0x201, 0x07#8)] } with
      | .next t => t.v[1] == 0x3B#8 && t.dt == 0x3B#8 && t.st == 0#8
      | _ => false) = true ∧
    after (regs blank [(3, 2#8)]) 0xF315 (fun t => t.dt == 2#8) = true ∧
    after (regs blank [(3, 1#8)]) 0xF318 (fun t => t.st == 1#8) = true := by decide

/-- KT13, and a timer at 0 stays there (R222). -/
theorem test_tick :
    (match tick { blank with dt := 5#8 } with
      | .next t => t.dt == 4#8 && t.st == 0#8
      | _ => false) = true := by decide

/-! ### Witnesses: states and operands that meet the hypotheses of the statements -/

theorem witness_DecodeOfEncode : (Instr.sys 0x123#12).wellFormed = true := by decide

theorem witness_EncodeOfDecode : decode 0x0123#16 = .ok (.sys 0x123#12) ∧ decode 0x8AB6#16 = .ok (.shr 0xA 0xB) := by
  decide

theorem witness_ZeroFamily : 0x00EE#16 >>> 12 = 0#16 ∧ 0x0FFF#16 >>> 12 = 0#16 := by decide

/-- One word in each of the five families, with `x` = F, `y` = 3 and `n` and `kk` at 0 or at their largest. -/
theorem witness_SplitFamilies :
    (0x5F30#16 >>> 8) &&& 0xF#16 = BitVec.ofNat 16 (15 : Fin 16).val ∧
    (0x5F30#16 >>> 4) &&& 0xF#16 = BitVec.ofNat 16 (3 : Fin 16).val ∧
    0x5F30#16 &&& 0xF#16 = BitVec.ofNat 16 (0 : Fin 16).val ∧
    0x5F30#16 &&& 0xFF#16 = BitVec.ofNat 16 (0x30#8).toNat ∧ 0xFF3F#16 &&& 0xF#16 = BitVec.ofNat 16 (15 : Fin 16).val ∧
    0xFFFF#16 &&& 0xFF#16 = BitVec.ofNat 16 (0xFF#8).toNat ∧ 0x5F30#16 >>> 12 = 0x5#16 ∧ 0x9F30#16 >>> 12 = 0x9#16 ∧
    0x8F30#16 >>> 12 = 0x8#16 ∧ 0xEFFF#16 >>> 12 = 0xE#16 ∧ 0xFFFF#16 >>> 12 = 0xF#16 := by
  decide

/-- The clauses of R100 at `PC` = 0x0FFE (the last inside), 0x0FFF (the first outside), with words that decode and not. -/
theorem witness_StepRuns :
    blank.fault = none ∧ 4096 ≤ ({ blank with pc := 0x0FFF#16 } : State).beginTurn.pc.toNat + 1 ∧
    ({ blank with pc := 0x0FFE#16 } : State).beginTurn.pc.toNat + 1 < 4096 ∧
    (0x0000#16).toNat = (blank.beginTurn.mem.read 0xFFE).toNat * 256 + (blank.beginTurn.mem.read 0xFFF).toNat ∧
    decode 0x0000#16 = .ok (.sys 0#12) ∧ decode 0x5121#16 = .error (.skipFamily 0x5121#16) ∧
    (blank.raised .stackOverflow).fault = some .stackOverflow := by decide

theorem witness_Turn : blank.turns = ⟨0, quiet 0#8⟩ :: [] ∧ blank.fault = none := by decide

theorem witness_Tick : blank.fault = none ∧ (blank.raised .stackUnderflow).fault ≠ none := by decide

theorem witness_Faulted : (blank.raised .stackOverflow).fault = some .stackOverflow := by decide

/-- A step that raises an error of `apply`, and one that raises an error of the fetch. -/
theorem witness_Errors :
    blank.fault = none ∧ exec (.sys 0#12) blank = .next (blank.raised (.unsupportedInstruction (.sys 0#12))) ∧
    step blank = .next (blank.beginTurn.advance.raised (.unsupportedInstruction (.sys 0#12))) ∧
    step { blank with pc := 0xFFF#16 } =
      .next (({ blank with pc := 0xFFF#16 } : State).beginTurn.raised (.memoryOutOfBounds 0x1000)) :=
  ⟨rfl, rfl, rfl, rfl⟩

theorem witness_Boot : Memory.wf [(0x000, 0xF0#8), (0x200, 0x12#8), (0xFFF, 0x01#8)] = true := by decide

theorem witness_boot_state : (State.boot [(0x200, 0x12#8)]).Inv :=
  ⟨by decide, fun h => absurd h (by decide), fun _ h => absurd h (by simp [State.boot, State.reset, State.setMem]),
    fun _ => rfl, by decide, fun k h => absurd h (by simp [State.boot, State.reset, State.setMem])⟩

/-- A step and a tick from a state that meets the invariant. -/
theorem witness_Transition :
    (State.boot [(0x200, 0x12#8)]).Inv ∧
    Transition (State.boot [(0x200, 0x12#8)]) ((State.boot [(0x200, 0x12#8)]).afterTicks 1) ∧
    Transition (State.boot [(0x200, 0x12#8)]) { (State.boot [(0x200, 0x12#8)]).beginTurn with effects := some ⟨false, false⟩ } :=
  ⟨witness_boot_state, .tick rfl, .step rfl⟩

theorem witness_Reachable : Reachable { State.boot [(0x200, 0x12#8)] with turns := [⟨3, key3⟩] } := .boot _ _ (by decide)

/-- Next states of `exec`, for the statements over all instructions. -/
theorem witness_exec_next :
    exec (.ldImm 3 7#8) blank = .next { blank.setV 3 7#8 with effects := some ⟨false, false⟩ } ∧
    blank.fault = none ∧ ({ blank.setV 3 7#8 with effects := some ⟨false, false⟩ } : State).fault = none :=
  ⟨rfl, rfl, rfl⟩

/-- `Skp` with the same keys and other inputs; the premises on `Rnd` and `LdK` hold of it emptily. -/
theorem witness_Inputs :
    exec (.skp 0) (start key3) = .next { (start key3) with effects := some ⟨false, false⟩ } ∧
    (quiet 0x55#8).keysDown = (start key3).inputs.keysDown := by
  exact ⟨rfl, rfl⟩

/-- Two states that differ in a stale entry, and a step. -/
theorem witness_Stale :
    SameButStale blank { blank with stack := blank.stack.set 5 0x321#16 } ∧
    step blank = .next (blank.beginTurn.advance.raised (.unsupportedInstruction (.sys 0#12))) :=
  ⟨⟨rfl, fun k h => absurd h (by simp [blank, start, State.reset])⟩, rfl⟩

theorem witness_AtRest : ({ blank with mem := [(0x200, 0x12#8)] } : State).AtRest := ⟨rfl, 0x200#12, rfl, rfl⟩

theorem witness_Waiting :
    blank.fault = none ∧ ({ blank with mem := [(0x200, 0xF2#8), (0x201, 0x0A#8)] } : State).fetch = .ok (.ldK 2) ∧
    blank.nextTurn.inputs.newKey = none := ⟨rfl, rfl, rfl⟩

/-- `SP` at 0 and at 16, and the entry it then pops or pushes at the top and the bottom of the stack. -/
theorem witness_stack_bounds :
    (blank.sp.val = 0 ∧ blank.sp.val = (0 : Fin 16).val) ∧
    (({ blank with sp := 16 } : State).sp.val = 16 ∧ ({ blank with sp := 16 } : State).sp.val = (15 : Fin 16).val + 1) ∧
    ({ blank with sp := 15 } : State).sp.val = (15 : Fin 16).val ∧ ({ blank with sp := 15 } : State).sp.val < 16 := by
  decide

/-- Key codes 15 and 16, the last key and the first code that names none. -/
theorem witness_key_codes :
    (blank.setV 1 0x0F#8).v[(1 : RegIdx)].toNat = (15 : Fin 16).val ∧ 16 ≤ (blank.setV 1 0x10#8).v[(1 : RegIdx)].toNat := by
  decide

/-- The last base inside and the first outside, for `LdB` (3 bytes) and for the bulk transfers with `x = F`. -/
theorem witness_ranges :
    ({ blank with i := 0xFFD#16 } : State).i.toNat + 2 < 4096 ∧ 4096 ≤ ({ blank with i := 0xFFE#16 } : State).i.toNat + 2 ∧
    ({ blank with i := 0xFF0#16 } : State).i.toNat + (15 : RegIdx).val < 4096 ∧
    4096 ≤ ({ blank with i := 0xFF1#16 } : State).i.toNat + (15 : RegIdx).val := by decide

/-- Sprites of no byte, of one byte at the last address, and of two bytes that leave memory. -/
theorem witness_Drw :
    (0 : RowCount).val = 0 ∧ ({ blank with i := 0xFFF#16 } : State).i.toNat + (1 : RowCount).val ≤ 4096 ∧
    (2 : RowCount).val ≠ 0 ∧ 4096 < ({ blank with i := 0xFFF#16 } : State).i.toNat + (2 : RowCount).val := by decide

theorem witness_DrawingTwice :
    (0 : RegIdx) ≠ 0xF ∧ (1 : RegIdx) ≠ 0xF ∧ ({ blank with i := 0x300#16 } : State).i.toNat + (1 : RowCount).val ≤ 4096 := by
  decide

/-- A store of two bytes at `PC`, one of one byte at `PC` + 1 in the last word of memory, and a `LdB` whose last digit
falls on `PC`. -/
theorem witness_FetchSeesStores :
    (let s := regs { blank with i := 0x200#16 } [(0, 0xA1#8), (1, 0x23#8)]
     s.pc.toNat + 1 < 4096 ∧ s.i.toNat + (1 : RegIdx).val < 4096 ∧ (0xA123#16).toNat =
      (byteAfterStoreRegs s 1 s.pc.toNat).toNat * 256 + (byteAfterStoreRegs s 1 (s.pc.toNat + 1)).toNat) ∧
    (let s := regs { blank with i := 0xFFF#16, pc := 0xFFE#16, mem := [(0xFFE, 0x61#8)] } [(0, 0x05#8)]
     s.pc.toNat + 1 < 4096 ∧ s.i.toNat + (0 : RegIdx).val < 4096 ∧ (0x6105#16).toNat =
      (byteAfterStoreRegs s 0 s.pc.toNat).toNat * 256 + (byteAfterStoreRegs s 0 (s.pc.toNat + 1)).toNat) ∧
    (let s := regs { blank with i := 0x1FE#16, mem := [(0x201, 0x0C#8)] } [(2, 255#8)]
     s.pc.toNat + 1 < 4096 ∧ s.i.toNat + 2 < 4096 ∧ (0x050C#16).toNat =
      (byteAfterLdB s 2 s.pc.toNat).toNat * 256 + (byteAfterLdB s 2 (s.pc.toNat + 1)).toNat) := by
  decide

/-- Memory with the glyphs of R242, and the last digit. -/
theorem witness_LdFPointsAtTheGlyph :
    (Memory.writeBytes [] 0 fontGlyphs).hasFont = true ∧ (blank.setV 5 0x0F#8).v[(5 : RegIdx)].toNat < 16 := by
  decide +kernel

/-- Both cases of `LdK`. -/
theorem witness_LdK : (quiet 0#8).newKey = none ∧ ({ quiet 0#8 with newKey := some 0xF } : Inputs).newKey = some 0xF := by
  decide

end Sys2Proof.Tests
end

section
/-! The fields of a word as bit operations (R71), and the decoder on the word the encoder builds (R72, R80, R84). -/

namespace Sys2Proof

/-- Masking the low `m` bits of a word is the remainder modulo `2 ^ m`. -/
theorem toNat_and_lowMask (w : Word) {m : Nat} (h : m ≤ 16) :
    (w &&& BitVec.ofNat 16 (2 ^ m - 1)).toNat = w.toNat % 2 ^ m := by
  have hmask : 2 ^ m - 1 < 2 ^ 16 :=
    (Nat.sub_lt (Nat.two_pow_pos m) Nat.one_pos).trans_le (Nat.pow_le_pow_right (by decide) h)
  rw [BitVec.toNat_and, BitVec.toNat_ofNat, Nat.mod_eq_of_lt hmask, Nat.and_two_pow_sub_one_eq_mod]

theorem toNat_shiftRight (w : Word) (k : Nat) : (w >>> k).toNat = w.toNat / 2 ^ k := by
  rw [BitVec.toNat_ushiftRight, Nat.shiftRight_eq_div_pow]

/-- Shifting `k` bits out and masking the low `m` bits reads the `m` bits from position `k`. -/
theorem toNat_shiftRight_and_lowMask (w : Word) (k : Nat) {m : Nat} (h : m ≤ 16) :
    ((w >>> k) &&& BitVec.ofNat 16 (2 ^ m - 1)).toNat = w.toNat / 2 ^ k % 2 ^ m := by
  rw [toNat_and_lowMask _ h, toNat_shiftRight]

theorem fieldOp_eq_shift (w : Word) : (fieldOp w).val = (w >>> 12).toNat :=
  (fieldOp_val w).trans (toNat_shiftRight w 12).symm

theorem fieldX_eq_shift_mask (w : Word) : (fieldX w).val = ((w >>> 8) &&& 0xF#16).toNat :=
  (fieldX_val w).trans (toNat_shiftRight_and_lowMask w 8 (m := 4) (by decide)).symm

theorem fieldY_eq_shift_mask (w : Word) : (fieldY w).val = ((w >>> 4) &&& 0xF#16).toNat :=
  (fieldY_val w).trans (toNat_shiftRight_and_lowMask w 4 (m := 4) (by decide)).symm

/-- Settles O3: each field is a quotient and remainder of the word, which a shift and a mask compute; a shift distributes
over the mask, so the other order of R71 reads the same bits. -/
theorem fieldsAreReadByBitPosition : Obligations.FieldsAreReadByBitPosition := by
  unfold Obligations.FieldsAreReadByBitPosition
  refine ⟨fun w => ⟨fieldOp_eq_shift w, fieldX_eq_shift_mask w, ?_, fieldY_eq_shift_mask w, ?_, ?_, ?_, ?_⟩, by decide⟩
  · rw [BitVec.ushiftRight_and_distrib]
    exact fieldX_eq_shift_mask w
  · rw [BitVec.ushiftRight_and_distrib]
    exact fieldY_eq_shift_mask w
  · exact (fieldN_val w).trans (toNat_and_lowMask w (m := 4) (by decide)).symm
  · exact (fieldNNN_toNat w).trans (toNat_and_lowMask w (m := 12) (by decide)).symm
  · exact (fieldKK_toNat w).trans (toNat_and_lowMask w (m := 8) (by decide)).symm

theorem fields_encodeNNN {op : Nat} (h : op < 16) (nnn : Addr12) :
    (fieldOp (encodeNNN op nnn)).val = op ∧ fieldNNN (encodeNNN op nnn) = nnn :=
  ⟨fieldOp_encodeNNN ⟨op, h⟩ nnn, fieldNNN_encodeNNN ⟨op, h⟩ nnn⟩

theorem fields_encodeXKK {op : Nat} (h : op < 16) (x : RegIdx) (kk : Byte) :
    (fieldOp (encodeXKK op x kk)).val = op ∧ fieldX (encodeXKK op x kk) = x ∧ fieldKK (encodeXKK op x kk) = kk :=
  ⟨fieldOp_encodeXKK ⟨op, h⟩ x kk, fieldX_encodeXKK ⟨op, h⟩ x kk, fieldKK_encodeXKK ⟨op, h⟩ x kk⟩

theorem fields_encodeXYN {op : Nat} (h : op < 16) (x y : RegIdx) (n : Fin 16) :
    (fieldOp (encodeXYN op x y n)).val = op ∧ fieldX (encodeXYN op x y n) = x ∧
    fieldY (encodeXYN op x y n) = y ∧ fieldN (encodeXYN op x y n) = n :=
  ⟨fieldOp_encodeXYN ⟨op, h⟩ x y n, fieldX_encodeXYN ⟨op, h⟩ x y n, fieldY_encodeXYN ⟨op, h⟩ x y n,
    fieldN_encodeXYN ⟨op, h⟩ x y n⟩

theorem encodeNNN_inj {op : Nat} (h : op < 16) {a b : Addr12} : encodeNNN op a = encodeNNN op b ↔ a = b := by
  refine ⟨fun hw => ?_, congrArg _⟩
  have hf := congrArg fieldNNN hw
  rwa [(fields_encodeNNN h a).2, (fields_encodeNNN h b).2] at hf

/-- The two exact words of the `0` family are the `Sys` words of the two operands that R84 leaves out. -/
theorem decodeZero_encodeNNN {nnn : Addr12} (hcls : nnn ≠ 0x0E0#12) (hret : nnn ≠ 0x0EE#12) :
    decodeZero (encodeNNN 0x0 nnn) = .sys nnn := by
  have notCls : encodeNNN 0x0 nnn ≠ 0x00E0#16 := mt (encodeNNN_inj (b := 0x0E0#12) (by decide)).1 hcls
  have notRet : encodeNNN 0x0 nnn ≠ 0x00EE#16 := mt (encodeNNN_inj (b := 0x0EE#12) (by decide)).1 hret
  rw [decodeZero, if_neg notCls, if_neg notRet, (fields_encodeNNN (by decide) nnn).2]

/-- Settles O1: one case per layout of R72 and family of R75 to R79, each read back through the layout's fields. -/
theorem decodeOfEncode : Obligations.DecodeOfEncode := by
  unfold Obligations.DecodeOfEncode
  intro i hi
  cases i with
  | cls | ret => rfl
  | sys nnn =>
    have hnnn : nnn ≠ 0x0E0#12 ∧ nnn ≠ 0x0EE#12 := by simpa [Instr.wellFormed] using hi
    simp (disch := decide) [encode, decode, fields_encodeNNN, decodeZero_encodeNNN hnnn.1 hnnn.2]
  | jp nnn | call nnn | ldI nnn | jpV0 nnn =>
    simp (disch := decide) [encode, decode, fields_encodeNNN]
  | seImm x kk | sneImm x kk | ldImm x kk | addImm x kk | rnd x kk =>
    simp (disch := decide) [encode, decode, fields_encodeXKK]
  | seReg x y | sneReg x y | drw x y n =>
    simp (disch := decide) [encode, decode, fields_encodeXYN]
  | ldReg x y | or x y | and x y | xor x y | addReg x y | sub x y | shr x y | subn x y | shl x y =>
    simp (disch := decide) [encode, decode, decodeAlu, fields_encodeXYN]
  | skp x | sknp x =>
    simp (disch := decide) [encode, decode, decodeKey, fields_encodeXKK]
  | ldVxDt x | ldK x | ldDtVx x | ldStVx x | addI x | ldF x | ldB x | storeRegs x | readRegs x =>
    simp (disch := decide) [encode, decode, decodeMisc, fields_encodeXKK]

end Sys2Proof
end

section
/-! Control transfer: the call stack at a known depth (R28), and what the stack instructions and the compare-skips leave
unchanged (R105, R107 to R111). -/

namespace Sys2Proof.Machine

theorem State.pop?_of_empty {s : State} (h : s.sp.val = 0) : s.pop? = none := by
  obtain ⟨k, hk, -⟩ | ⟨-, hpop⟩ := pop?_eq s
  · omega
  · exact hpop

theorem State.pop?_of_live {s : State} {k : Fin 16} (h : s.sp.val = k.val + 1) :
    s.pop? = some (s.stack[k], { s with sp := k.castSucc }) := by
  obtain ⟨j, hj, hpop⟩ | ⟨hempty, -⟩ := pop?_eq s
  · have hjk : j = k := Fin.ext (by omega)
    rw [hpop, hjk]
  · omega

theorem State.push?_of_full {s : State} (h : s.sp.val = 16) (w : Word) : s.push? w = none := by
  obtain ⟨k, hk, -⟩ | ⟨-, hpush⟩ := push?_eq s w
  · omega
  · exact hpush

theorem State.push?_of_room {s : State} {k : Fin 16} (h : s.sp.val = k.val) (w : Word) :
    s.push? w = some { s with stack := s.stack.set k.val w k.isLt, sp := k.succ } := by
  obtain ⟨j, hj, hpush⟩ | ⟨hfull, -⟩ := push?_eq s w
  · have hjk : j = k := Fin.ext (by omega)
    rw [hpush, hjk]
  · omega

theorem exec_ret_of_pop {s s' : State} {w : Word} (h : s.pop? = some (w, s')) :
    exec .ret s = done false (s'.setPC w) := by
  rw [exec, execRet, h]

theorem exec_call_of_push {s s' : State} (nnn : Addr12) (h : s.push? s.pc = some s') :
    exec (.call nnn) s = done false (s'.setPC (zext16 nnn)) := by
  rw [exec, execCall, h]

/-- Completing after writes to `SP`, the stack and `PC` writes nothing else. -/
theorem stackOnly_of_done {i : Instr} {s : State} {post : State → Prop} {sp : Fin 17} {stack : Vector Word 16} {w : Word}
    (h : exec i s = done false ({ s with sp := sp, stack := stack }.setPC w))
    (hpost : post { s with sp := sp, stack := stack, pc := w, effects := some ⟨false, s.await⟩ }) :
    StackOnly i s post :=
  ⟨_, h, hpost, fun _ _ => rfl, rfl, ⟨rfl, rfl⟩, fun _ => rfl, fun _ _ => rfl, ⟨rfl, rfl⟩, ⟨rfl, rfl, rfl⟩, rfl⟩

/-- Completing after a write to `PC` writes nothing else. -/
theorem controlOnly_of_done {i : Instr} {s : State} {post : State → Prop} {w : Word}
    (h : exec i s = done false (s.setPC w)) (hpost : post { s with pc := w, effects := some ⟨false, s.await⟩ }) :
    ControlOnly i s post :=
  ⟨_, h, hpost, fun _ _ => rfl, rfl, ⟨rfl, rfl⟩, ⟨rfl, rfl⟩, fun _ => rfl, fun _ _ => rfl, ⟨rfl, rfl⟩,
    ⟨rfl, rfl, rfl⟩, rfl⟩

/-- An instruction whose meaning is `skip_if` of a condition skips exactly when it holds (R103). -/
theorem skipsWhen_of_skipIf {i : Instr} {s : State} {c : Prop} {b : Bool}
    (h : exec i s = done false (s.skipIf b)) (hb : b = true ↔ c) : SkipsWhen i s c := by
  refine controlOnly_of_done h ⟨fun hc => ?_, fun hc => ?_⟩
  · rw [if_pos (hb.2 hc), nextAddr_toNat]
  · exact if_neg (mt hb.1 hc)

/-- Settles O27: the two depths of R105, each through what a pop answers there. -/
theorem retPopsTheProgramCounter : Obligations.RetPopsTheProgramCounter := by
  unfold Obligations.RetPopsTheProgramCounter
  refine fun s => ⟨fun hempty => ?_, fun k hk => ?_⟩
  · rw [Raises, exec, execRet, State.pop?_of_empty hempty, raise_eq]
  · exact stackOnly_of_done (exec_ret_of_pop (State.pop?_of_live hk)) ⟨rfl, rfl, rfl⟩

/-- Settles O29: the two depths of R107, each through what a push answers there. -/
theorem callPushesTheReturnAddress : Obligations.CallPushesTheReturnAddress := by
  unfold Obligations.CallPushesTheReturnAddress
  refine fun s nnn => ⟨fun hfull => ?_, fun k hk => ?_⟩
  · rw [Raises, exec, execCall, State.push?_of_full hfull, raise_eq]
  · refine stackOnly_of_done (exec_call_of_push nnn (State.push?_of_room hk s.pc)) ⟨zext16_toNat nnn, rfl, ?_, ?_⟩
    · exact Vector.getElem_set_self k.isLt
    · exact fun j hj => Vector.getElem_set_ne k.isLt j.isLt (Fin.val_ne_of_ne hj.symm)

/-- Settles O31: each of the four is `skip_if` of its own comparison. -/
theorem compareSkipsSkipOneInstruction : Obligations.CompareSkipsSkipOneInstruction := by
  unfold Obligations.CompareSkipsSkipOneInstruction
  intro s x y kk
  exact ⟨skipsWhen_of_skipIf rfl decide_eq_true_iff, skipsWhen_of_skipIf rfl decide_eq_true_iff,
    skipsWhen_of_skipIf rfl decide_eq_true_iff, skipsWhen_of_skipIf rfl decide_eq_true_iff⟩

end Sys2Proof.Machine
end

section
/-! The register instructions that write a flag and a result (R131, R138 to R142): what they write, and what they leave
unchanged. -/

namespace Sys2Proof.Machine

/-- An instruction that writes a flag and then a result changes no register but `V[0xF]` and the result's, and whatever
follows from the two values it leaves there holds of the new state (R131). -/
theorem registerOnly_of_setFlagThen {i : Instr} {s : State} {x : RegIdx} {flag : Bool} {result : Byte}
    {post : State → Prop} (h : exec i s = done false (s.setFlagThen flag x result))
    (hpost : ∀ t : State, t.v[x] = result → (x ≠ 0xF → t.v[(0xF : RegIdx)] = flagByte flag) → post t) :
    RegisterOnly i s [0xF, x] post := by
  refine ⟨_, h, hpost _ (getElem_setFlagThen_result s flag x result) (getElem_setFlagThen_flag s flag result), ?_,
    rfl, rfl, ⟨rfl, rfl⟩, ⟨rfl, rfl⟩, fun _ => rfl, fun _ _ => rfl, ⟨rfl, rfl⟩, ⟨rfl, rfl, rfl⟩, rfl⟩
  intro r hr
  obtain ⟨hflag, hx⟩ : r ≠ 0xF ∧ r ≠ x := by simpa using hr
  exact getElem_setFlagThen_other s flag result hx hflag

theorem flagByte_carryFlag (a b : Byte) :
    flagByte (carryFlag a b) = if 255 < a.toNat + b.toNat then 1#8 else 0#8 :=
  if_congr decide_eq_true_iff rfl rfl

/-- Settles O35: the carry and the sum are both taken from the old operands; the sum is written last, so it wins when
`x` is `F`. -/
theorem addRegWritesSumAndCarry : Obligations.AddRegWritesSumAndCarry := by
  unfold Obligations.AddRegWritesSumAndCarry
  refine fun s x y => registerOnly_of_setFlagThen rfl fun t hsum hcarry => ⟨?_, fun hx => ?_⟩
  · rw [hsum, addBytes_toNat]
  · rw [hcarry hx, flagByte_carryFlag]

end Sys2Proof.Machine
end

section
/-! The timer transfers (R192, R194, R195): what a register write and a timer write leave unchanged. -/

namespace Sys2Proof.Machine

/-- An instruction that writes one register changes no other, and whatever follows from the value it leaves there holds
of the new state (R11). -/
theorem registerOnly_of_setV {i : Instr} {s : State} {x : RegIdx} {b : Byte} {post : State → Prop}
    (h : exec i s = done false (s.setV x b)) (hpost : ∀ t : State, t.v[x] = b → post t) :
    RegisterOnly i s [x] post := by
  refine ⟨_, h, hpost _ ?_, ?_, rfl, rfl, ⟨rfl, rfl⟩, ⟨rfl, rfl⟩, fun _ => rfl, fun _ _ => rfl, ⟨rfl, rfl⟩,
    ⟨rfl, rfl, rfl⟩, rfl⟩
  · exact (getElem_setReg s.v x x b).trans (if_pos rfl)
  · intro r hr
    have hxr : x ≠ r := Ne.symm (List.ne_of_not_mem_cons hr)
    exact (getElem_setReg s.v x r b).trans (if_neg hxr)

/-- Completing after writes to the two timers writes nothing else (R25, R26). -/
theorem timersOnly_of_done {i : Instr} {s : State} {dt st : Byte} {post : State → Prop}
    (h : exec i s = done false { s with dt := dt, st := st })
    (hpost : ∀ t : State, t.dt = dt → t.st = st → post t) : TimersOnly i s post :=
  ⟨_, h, hpost _ rfl rfl, fun _ _ => rfl, rfl, rfl, ⟨rfl, rfl⟩, fun _ => rfl, fun _ _ => rfl, ⟨rfl, rfl⟩,
    ⟨rfl, rfl, rfl⟩, rfl⟩

/-- Settles O49: `LdVxDt` is one register write; each of the other two writes one timer and keeps the other. -/
theorem timerTransfers : Obligations.TimerTransfers := by
  unfold Obligations.TimerTransfers
  intro s x
  refine ⟨?readsDt, ?writesDt, ?writesSt⟩
  case readsDt => exact registerOnly_of_setV rfl fun _ hv => hv
  case writesDt => exact timersOnly_of_done (dt := s.v[x]) (st := s.st) rfl fun _ hdt hst => ⟨hdt, hst⟩
  case writesSt => exact timersOnly_of_done (dt := s.dt) (st := s.v[x]) rfl fun _ hdt hst => ⟨hst, hdt⟩

end Sys2Proof.Machine
end

section
/-! The decoder read backwards (R84): a word is rebuilt from its fields, so the record it decodes to has its word; and
what each split family decodes to, by its sub-opcode (R76 to R79, R81). -/

namespace Sys2Proof

/-! ### A word rebuilt from its fields -/

theorem encodeNNN_fields {w : Word} {op : Nat} (hop : (fieldOp w).val = op) : encodeNNN op (fieldNNN w) = w := by
  subst hop
  apply BitVec.eq_of_toNat_eq
  rw [encodeNNN_toNat (fieldOp w).isLt, fieldOp_val, fieldNNN_toNat]
  omega

theorem encodeXKK_fields {w : Word} {op : Nat} {kk : Byte} (hop : (fieldOp w).val = op)
    (hkk : (fieldKK w).toNat = kk.toNat) : encodeXKK op (fieldX w) kk = w := by
  subst hop
  apply BitVec.eq_of_toNat_eq
  rw [encodeXKK_toNat (fieldOp w).isLt, fieldOp_val, fieldX_val, ← hkk, fieldKK_toNat]
  omega

theorem encodeXYN_fields {w : Word} {op : Nat} {n : Fin 16} (hop : (fieldOp w).val = op)
    (hn : (fieldN w).val = n.val) : encodeXYN op (fieldX w) (fieldY w) n = w := by
  subst hop
  apply BitVec.eq_of_toNat_eq
  rw [encodeXYN_toNat (fieldOp w).isLt, fieldOp_val, fieldX_val, fieldY_val, ← hn, fieldN_val]
  omega

theorem encode_of_decodeZero {w : Word} (hop : (fieldOp w).val = 0) : encode (decodeZero w) = w := by
  unfold decodeZero
  split_ifs with hcls hret
  · exact hcls.symm
  · exact hret.symm
  · exact encodeNNN_fields hop

theorem encode_of_decodeAlu {w : Word} {i : Instr} (hop : (fieldOp w).val = 8) (h : decodeAlu w = .ok i) :
    encode i = w := by
  unfold decodeAlu at h
  split at h <;> cases h <;> exact encodeXYN_fields hop ‹_›

theorem encode_of_decodeKey {w : Word} {i : Instr} (hop : (fieldOp w).val = 0xE) (h : decodeKey w = .ok i) :
    encode i = w := by
  unfold decodeKey at h
  split at h <;> cases h <;> exact encodeXKK_fields hop ‹_›

theorem encode_of_decodeMisc {w : Word} {i : Instr} (hop : (fieldOp w).val = 0xF) (h : decodeMisc w = .ok i) :
    encode i = w := by
  unfold decodeMisc at h
  split at h <;> cases h <;> exact encodeXKK_fields hop ‹_›

/-- The word of the record a word decodes to is that word (R84). The cases are the families 0 to F in order: `h_1` is
family 0. -/
theorem encode_of_decode {w : Word} {i : Instr} (h : decode w = .ok i) : encode i = w := by
  unfold decode at h
  split at h
  case h_1 hop => cases h; exact encode_of_decodeZero hop
  case h_2 hop | h_3 hop | h_11 hop | h_12 hop => cases h; exact encodeNNN_fields hop
  case h_4 hop | h_5 hop | h_7 hop | h_8 hop | h_13 hop => cases h; exact encodeXKK_fields hop rfl
  case h_14 hop => cases h; exact encodeXYN_fields hop rfl
  case h_6 hop | h_10 hop =>
    split at h
    · cases h; exact encodeXYN_fields hop (congrArg Fin.val ‹_›)
    · cases h
  case h_9 hop => exact encode_of_decodeAlu hop h
  case h_15 hop => exact encode_of_decodeKey hop h
  case h_16 =>
    have hlt := (fieldOp w).isLt
    exact encode_of_decodeMisc (by grind) h

theorem wellFormed_iff (i : Instr) : i.wellFormed = true ↔ i ≠ .sys 0x0E0#12 ∧ i ≠ .sys 0x0EE#12 := by
  cases i <;> simp [Instr.wellFormed]

/-- Settles O2: a decoded record's word is the word decoded, which gives injectivity; the two records left out have the
words of `Cls` and `Ret`, and every other record is well-formed, so its own word decodes to it. -/
theorem encodeOfDecode : Obligations.EncodeOfDecode := by
  unfold Obligations.EncodeOfDecode
  refine ⟨fun w i => encode_of_decode, fun w₁ w₂ i h₁ h₂ => ?_, fun i => ⟨?_, fun hi => ?_⟩⟩
  · exact (encode_of_decode h₁).symm.trans (encode_of_decode h₂)
  · rintro ⟨w, hw⟩
    have hself : decode (encode i) = .ok i := (encode_of_decode hw).symm ▸ hw
    constructor
    · rintro rfl; exact absurd hself (by decide)
    · rintro rfl; exact absurd hself (by decide)
  · exact ⟨encode i, decodeOfEncode i ((wellFormed_iff i).2 hi)⟩

/-- Settles O7: each word is decoded by computation. -/
theorem sampleWordsDecode : Obligations.SampleWordsDecode := by
  unfold Obligations.SampleWordsDecode
  decide

/-! ### The split families by their sub-opcode -/

theorem shift_eq_iff_fieldOp (w op : Word) : w >>> 12 = op ↔ (fieldOp w).val = op.toNat := by
  rw [← BitVec.toNat_inj, fieldOp_eq_shift]

theorem mask_eq_iff_fieldN (w n : Word) : w &&& 0xF#16 = n ↔ (fieldN w).val = n.toNat := by
  rw [← BitVec.toNat_inj, fieldN_val]
  exact Eq.congr_left (toNat_and_lowMask w (m := 4) (by decide))

theorem mask_eq_iff_fieldKK (w kk : Word) : w &&& 0xFF#16 = kk ↔ (fieldKK w).toNat = kk.toNat := by
  rw [← BitVec.toNat_inj, fieldKK_toNat]
  exact Eq.congr_left (toNat_and_lowMask w (m := 8) (by decide))

theorem toNat_ofNat_fin (x : Fin 16) : (BitVec.ofNat 16 x.val).toNat = x.val :=
  Nat.mod_eq_of_lt (x.isLt.trans (by decide))

/-- Settles O4: the family of the word is 0, and there the decoder compares the whole word. -/
theorem zeroFamilyComparesTheWholeWord : Obligations.ZeroFamilyComparesTheWholeWord := by
  unfold Obligations.ZeroFamilyComparesTheWholeWord
  intro w hop
  have hop := (shift_eq_iff_fieldOp w 0).1 hop
  simp [decode, hop, decodeZero, fieldNNN]

/-- The `8` family as a chain of comparisons of `n` (R78). -/
theorem decodeAlu_eq (w : Word) : decodeAlu w =
    if fieldN w = 0x0 then .ok (.ldReg (fieldX w) (fieldY w))
    else if fieldN w = 0x1 then .ok (.or (fieldX w) (fieldY w))
    else if fieldN w = 0x2 then .ok (.and (fieldX w) (fieldY w))
    else if fieldN w = 0x3 then .ok (.xor (fieldX w) (fieldY w))
    else if fieldN w = 0x4 then .ok (.addReg (fieldX w) (fieldY w))
    else if fieldN w = 0x5 then .ok (.sub (fieldX w) (fieldY w))
    else if fieldN w = 0x6 then .ok (.shr (fieldX w) (fieldY w))
    else if fieldN w = 0x7 then .ok (.subn (fieldX w) (fieldY w))
    else if fieldN w = 0xE then .ok (.shl (fieldX w) (fieldY w))
    else .error (.aluFamily w) := by
  unfold decodeAlu
  generalize fieldN w = n
  fin_cases n <;> rfl

theorem decodeKey_eq (w : Word) : decodeKey w =
    if fieldKK w = 0x9E#8 then .ok (.skp (fieldX w))
    else if fieldKK w = 0xA1#8 then .ok (.sknp (fieldX w))
    else .error (.keyFamily w) := by
  unfold decodeKey
  split <;> simp_all [← BitVec.toNat_inj]

theorem decodeMisc_eq (w : Word) : decodeMisc w =
    if fieldKK w = 0x07#8 then .ok (.ldVxDt (fieldX w))
    else if fieldKK w = 0x0A#8 then .ok (.ldK (fieldX w))
    else if fieldKK w = 0x15#8 then .ok (.ldDtVx (fieldX w))
    else if fieldKK w = 0x18#8 then .ok (.ldStVx (fieldX w))
    else if fieldKK w = 0x1E#8 then .ok (.addI (fieldX w))
    else if fieldKK w = 0x29#8 then .ok (.ldF (fieldX w))
    else if fieldKK w = 0x33#8 then .ok (.ldB (fieldX w))
    else if fieldKK w = 0x55#8 then .ok (.storeRegs (fieldX w))
    else if fieldKK w = 0x65#8 then .ok (.readRegs (fieldX w))
    else .error (.miscFamily w) := by
  unfold decodeMisc
  split <;> simp_all [← BitVec.toNat_inj]

/-- Settles O5: the given bits are the fields of the word, and each family is the chain of comparisons above. -/
theorem splitFamiliesDecodeBySubOpcode : Obligations.SplitFamiliesDecodeBySubOpcode := by
  unfold Obligations.SplitFamiliesDecodeBySubOpcode
  intro w x y n kk hx hy hn hkk
  obtain rfl : fieldX w = x := Fin.ext (by rw [fieldX_eq_shift_mask, hx, toNat_ofNat_fin])
  obtain rfl : fieldY w = y := Fin.ext (by rw [fieldY_eq_shift_mask, hy, toNat_ofNat_fin])
  obtain rfl : fieldN w = n := Fin.ext (((mask_eq_iff_fieldN w _).1 hn).trans (toNat_ofNat_fin n))
  obtain rfl : fieldKK w = kk := BitVec.eq_of_toNat_eq <|
    ((mask_eq_iff_fieldKK w _).1 hkk).trans (Nat.mod_eq_of_lt (kk.isLt.trans (by decide)))
  simp only [shift_eq_iff_fieldOp]
  refine ⟨fun hop => ?_, fun hop => ?_, fun hop => ?_, fun hop => ?_, fun hop => ?_⟩
  · simp [decode, hop]
  · simp [decode, hop]
  · simp [decode, hop, decodeAlu_eq]
  · simp [decode, hop, decodeKey_eq]
  · simp [decode, hop, decodeMisc_eq]

/-! ### The words that do not decode -/

theorem decodeAlu_fails_iff (w : Word) :
    (∃ f, decodeAlu w = .error f) ↔ (fieldN w).val ∈ [0x8, 0x9, 0xA, 0xB, 0xC, 0xD, 0xF] := by
  rw [decodeAlu_eq]
  generalize fieldN w = n
  fin_cases n <;> simp

theorem decodeKey_fails_iff (w : Word) :
    (∃ f, decodeKey w = .error f) ↔ (fieldKK w).toNat ∉ [0x9E, 0xA1] := by
  unfold decodeKey
  split <;> simp_all

theorem decodeMisc_fails_iff (w : Word) :
    (∃ f, decodeMisc w = .error f) ↔
      (fieldKK w).toNat ∉ [0x07, 0x0A, 0x15, 0x18, 0x1E, 0x29, 0x33, 0x55, 0x65] := by
  unfold decodeMisc
  split <;> simp_all

theorem word_of_decode_error {w : Word} {f : DecodeFailure} (h : decode w = .error f) : f.word = w := by
  unfold decode decodeAlu decodeKey decodeMisc at h
  repeat' split at h
  all_goals cases h <;> rfl

/-- Settles O6: a failure is one of the five split families', and each of them fails on the sub-opcodes left over. -/
theorem decodeFailsOnlyInFiveFamilies : Obligations.DecodeFailsOnlyInFiveFamilies := by
  unfold Obligations.DecodeFailsOnlyInFiveFamilies
  refine ⟨fun w => ?_, fun w f => word_of_decode_error⟩
  simp only [List.mem_cons, List.not_mem_nil, ne_eq, shift_eq_iff_fieldOp, mask_eq_iff_fieldN, mask_eq_iff_fieldKK]
  unfold decode
  split
  case h_6 hop | h_10 hop => split <;> simp_all
  case h_9 hop => simp [hop, decodeAlu_fails_iff]
  case h_15 hop => simp [hop, decodeKey_fails_iff]
  case h_16 =>
    have hop : (fieldOp w).val = 15 := by
      have hlt := (fieldOp w).isLt
      grind
    simp [hop, decodeMisc_fails_iff]
  all_goals simp [*]

end Sys2Proof
end

section
/-! `apply` said once: the state an instruction leaves when none of its checks fails, and that `exec` answers it, or
raises the error of the table (R102, R210, R214). -/

namespace Sys2Proof.Machine

/-- Whether an instruction answers a display change (R44). -/
def changesDisplay : Instr → Bool
  | .cls | .drw _ _ _ => true
  | _ => false

/-- The state an instruction leaves where it raises no error, before the side-effect record. What it gives where an
error is raised (`Ret` on an empty stack, `Call` on a full one, `Sys`) is never reached: `exec_eq`. -/
def applied (i : Instr) (s : State) : State :=
  match i with
  | .cls => s.setDisp Display.clear
  | .ret => { s with
      pc := s.stack[s.sp.val - 1]'(show s.sp.val - 1 < 16 by have : s.sp.val < 17 := s.sp.isLt; omega)
      sp := ⟨s.sp.val - 1, (Nat.sub_le _ _).trans_lt s.sp.isLt⟩ }
  | .sys _ => s
  | .jp nnn => s.setPC (zext16 nnn)
  | .call nnn => { s with
      pc := zext16 nnn, sp := Fin.ofNat 17 (s.sp.val + 1), stack := s.stack.setIfInBounds s.sp.val s.pc }
  | .seImm x kk => s.skipIf (decide (s.v[x] = kk))
  | .sneImm x kk => s.skipIf (decide (s.v[x] ≠ kk))
  | .seReg x y => s.skipIf (decide (s.v[x] = s.v[y]))
  | .sneReg x y => s.skipIf (decide (s.v[x] ≠ s.v[y]))
  | .ldImm x kk => s.setV x kk
  | .addImm x kk => s.setV x (addBytes s.v[x] kk)
  | .ldReg x y => s.setV x s.v[y]
  | .or x y => s.setV x (s.v[x] ||| s.v[y])
  | .and x y => s.setV x (s.v[x] &&& s.v[y])
  | .xor x y => s.setV x (s.v[x] ^^^ s.v[y])
  | .addReg x y => s.setFlagThen (carryFlag s.v[x] s.v[y]) x (addBytes s.v[x] s.v[y])
  | .sub x y => s.setFlagThen (noBorrowFlag s.v[x] s.v[y]) x (subBytes s.v[x] s.v[y])
  | .shr x _ => s.setFlagThen (lowBitFlag s.v[x]) x (halveByte s.v[x])
  | .subn x y => s.setFlagThen (noBorrowFlag s.v[y] s.v[x]) x (subBytes s.v[y] s.v[x])
  | .shl x _ => s.setFlagThen (highBitFlag s.v[x]) x (doubleByte s.v[x])
  | .ldI nnn => s.setI (zext16 nnn)
  | .jpV0 nnn => s.setPC (addToWord (zext16 nnn) s.v[(0 : RegIdx)])
  | .rnd x kk => s.setV x (s.inputs.random &&& kk)
  | .drw x y n => (s.setDisp (drawn x y n s).disp).setFlag (drawn x y n s).collision
  | .skp x => s.skipIf (keyIsDown s.inputs s.v[x])
  | .sknp x => s.skipIf (!keyIsDown s.inputs s.v[x])
  | .ldVxDt x => s.setV x s.dt
  | .ldK x => keyWait x s s.inputs.newKey
  | .ldDtVx x => s.setDT s.v[x]
  | .ldStVx x => s.setST s.v[x]
  | .addI x => s.setI (addToWord s.i s.v[x])
  | .ldF x => s.setI (glyphAddr s.v[x])
  | .ldB x => s.setMem (s.mem.writeBytes s.i.toNat (decimalDigits s.v[x]))
  | .storeRegs x => s.setMem (s.mem.writeBytes s.i.toNat (storedRegs s.v x))
  | .readRegs x => s.setVs (loadedRegs s.v s.mem s.i.toNat x)

/-- The bounds check as the table of errors has it: raise the range's error, or run the rest (R54). -/
theorem withRange_eq_rangeError (base count : Nat) (s : State) (rest : Host.Outcome State Fault Refusal) :
    withRange base count s rest = (rangeError base count).elim rest fun e => raise e s := by
  unfold rangeError
  split_ifs with h hbase
  · rw [withRange_of_outside s rest h.1 h.2, Nat.max_eq_left hbase]; rfl
  · rw [withRange_of_outside s rest h.1 h.2, Nat.max_eq_right (Nat.le_of_not_le hbase)]; rfl
  · exact withRange_of_inside s rest (by omega)

theorem rangeError_eq_none_iff {base count : Nat} :
    rangeError base count = none ↔ count = 0 ∨ base + count ≤ 4096 := by
  simp only [rangeError, ite_eq_right_iff, reduceCtorEq, imp_false]
  omega

theorem applied_ret_of_live {s : State} {k : Fin 16} (h : s.sp.val = k.val + 1) :
    applied .ret s = { s with pc := s.stack[k], sp := k.castSucc } := by
  have hsp : k.castSucc = ⟨s.sp.val - 1, (Nat.sub_le _ _).trans_lt s.sp.isLt⟩ := Fin.ext (by simp [h])
  rw [applied, hsp]
  simp [h]

theorem applied_call_of_room {s : State} {k : Fin 16} (h : s.sp.val = k.val) (nnn : Addr12) :
    applied (.call nnn) s = { s with pc := zext16 nnn, sp := k.succ, stack := s.stack.set k.val s.pc } := by
  have hsp : Fin.ofNat 17 (s.sp.val + 1) = k.succ := by ext; simp [h]; omega
  have hstack : s.stack.setIfInBounds s.sp.val s.pc = s.stack.set k.val s.pc := by
    ext j hj; simp [h, Vector.getElem_setIfInBounds, Vector.getElem_set]
  rw [applied, hsp, hstack]

theorem live_of_noError {s : State} (h : applyError .ret s = none) : ∃ k : Fin 16, s.sp.val = k.val + 1 := by
  have hlive : s.sp.val ≠ 0 := by simpa [applyError] using h
  have hsp : s.sp.val < 17 := s.sp.isLt
  exact ⟨⟨s.sp.val - 1, by omega⟩, (Nat.sub_one_add_one hlive).symm⟩

theorem room_of_noError {nnn : Addr12} {s : State} (h : applyError (.call nnn) s = none) :
    ∃ k : Fin 16, s.sp.val = k.val := by
  have hfull : s.sp.val ≠ 16 := by simpa [applyError] using h
  have hsp : s.sp.val < 17 := s.sp.isLt
  exact ⟨⟨s.sp.val, by omega⟩, rfl⟩

theorem exec_ret_eq (s : State) :
    exec .ret s = (applyError .ret s).elim (done false (applied .ret s)) fun e => raise e s := by
  obtain ⟨k, hk, hpop⟩ | ⟨hempty, hpop⟩ := pop?_eq s
  · rw [exec_ret_of_pop hpop, applyError, if_neg (by omega), applied_ret_of_live hk]; rfl
  · rw [exec, execRet, hpop, applyError, if_pos hempty]; rfl

theorem exec_call_eq (nnn : Addr12) (s : State) :
    exec (.call nnn) s = (applyError (.call nnn) s).elim (done false (applied (.call nnn) s)) fun e => raise e s := by
  obtain ⟨k, hk, hpush⟩ | ⟨hfull, hpush⟩ := push?_eq s s.pc
  · rw [exec_call_of_push nnn hpush, applyError, if_neg (by omega), applied_call_of_room hk]; rfl
  · rw [exec, execCall, hpush, applyError, if_pos hfull]; rfl

/-- `exec` raises the error of the table of R210, or leaves the state above with its record. -/
theorem exec_eq (i : Instr) (s : State) :
    exec i s = (applyError i s).elim (done (changesDisplay i) (applied i s)) fun e => raise e s := by
  cases i with
  | ret => exact exec_ret_eq s
  | call nnn => exact exec_call_eq nnn s
  | drw | ldB | storeRegs | readRegs => exact withRange_eq_rangeError ..
  | _ => rfl

theorem exec_of_applyError {i : Instr} {s : State} {e : Error} (h : applyError i s = some e) :
    exec i s = .next (s.raised e) := by
  rw [exec_eq, h]; rfl

theorem exec_of_noError {i : Instr} {s : State} (h : applyError i s = none) :
    exec i s = done (changesDisplay i) (applied i s) := by
  rw [exec_eq, h]; rfl

/-- Everything `exec` can answer: the faulted state of the error the table names, or the state above with its
side-effect record. -/
theorem exec_cases {i : Instr} {s t : State} (h : exec i s = .next t) :
    (∃ e, applyError i s = some e ∧ t = s.raised e) ∨
    (applyError i s = none ∧
      t = { applied i s with effects := some ⟨changesDisplay i, (applied i s).await⟩ }) := by
  cases he : applyError i s with
  | some e =>
    rw [exec_of_applyError he] at h
    cases h; exact .inl ⟨e, rfl, rfl⟩
  | none =>
    rw [exec_of_noError he] at h
    cases h; exact .inr ⟨rfl, rfl⟩

theorem exec_answers (i : Instr) (s : State) : ∃ t, exec i s = .next t := by
  cases he : applyError i s with
  | some e => exact ⟨_, exec_of_applyError he⟩
  | none => exact ⟨_, exec_of_noError he⟩

/-- `LdK` writes `V[x]`, `AWAIT` and `PC` alone (R193). -/
theorem keyWait_eq (x : RegIdx) (s : State) (k : Option Key) : keyWait x s k =
    { s with v := (keyWait x s k).v, await := (keyWait x s k).await, pc := (keyWait x s k).pc } := by
  cases k <;> rfl

@[simp] theorem applied_fault (i : Instr) (s : State) : (applied i s).fault = s.fault := by
  cases i with
  | ldK x => rw [applied, keyWait_eq]
  | _ => rfl

/-- `apply` from a state without an error leaves `FAULT` as the table of R210 says. -/
theorem exec_fault {i : Instr} {s t : State} (hs : s.fault = none) (h : exec i s = .next t) :
    t.fault = applyError i s := by
  obtain ⟨e, he, rfl⟩ | ⟨he, rfl⟩ := exec_cases h
  · exact he.symm
  · exact ((applied_fault i s).trans hs).trans he.symm

/-- The checks of an instruction read `I` and `SP` alone. -/
theorem applyError_congr (i : Instr) {s t : State} (hi : t.i = s.i) (hsp : t.sp = s.sp) :
    applyError i t = applyError i s := by
  cases i <;> simp only [applyError, hi, hsp]

end Sys2Proof.Machine
end

section
/-! The step (R100) and the errors it raises (R210 to R215). -/

namespace Sys2Proof.Machine

theorem step_of_fault {s : State} {e : Error} (h : s.fault = some e) : step s = .fault (.stopped e) := by
  rw [step, h]

theorem tick_of_fault {s : State} {e : Error} (h : s.fault = some e) : tick s = .fault (.stopped e) := by
  rw [tick, h]

theorem step_of_fetch_error {s : State} {e : Error} (h : s.fault = none) (hf : s.fetch = .error e) :
    step s = .next (s.beginTurn.raised e) := by
  simp [step, h, cycle, hf, State.raised]

theorem step_of_fetch_ok {s : State} {i : Instr} (h : s.fault = none) (hf : s.fetch = .ok i) :
    step s = exec i s.beginTurn.advance := by
  simp [step, h, cycle, hf]

/-- What a step answers, if it answers a state: the fetch's error raised, or what the instruction fetched answers. -/
theorem step_next_cases {s t : State} (h : step s = .next t) :
    s.fault = none ∧ ((∃ e, s.fetch = .error e ∧ t = s.beginTurn.raised e) ∨
      ∃ i, s.fetch = .ok i ∧ exec i s.beginTurn.advance = .next t) := by
  obtain ⟨e, -, hstep⟩ | ⟨hs, e, hf, hstep⟩ | ⟨hs, i, hf, hstep⟩ := step_cases s
  · rw [hstep] at h; cases h
  · rw [hstep] at h; cases h; exact ⟨hs, .inl ⟨e, hf, rfl⟩⟩
  · exact ⟨hs, .inr ⟨i, hf, hstep ▸ h⟩⟩

/-- Settles O11: both look at `FAULT` first. -/
theorem faultedStateTakesNoStepAndNoTick : Obligations.FaultedStateTakesNoStepAndNoTick := by
  unfold Obligations.FaultedStateTakesNoStepAndNoTick
  exact fun s e h => ⟨step_of_fault h, tick_of_fault h⟩

theorem step_answers {s : State} (h : s.fault = none) : ∃ t, step s = .next t := by
  cases hf : s.fetch with
  | error e => exact ⟨_, step_of_fetch_error h hf⟩
  | ok i => exact step_of_fetch_ok h hf ▸ exec_answers i _

/-- Settles O12: the fetch's error is raised, or the instruction fetched answers a next state. -/
theorem stepAnswersNextUnlessStopped : Obligations.StepAnswersNextUnlessStopped := by
  unfold Obligations.StepAnswersNextUnlessStopped
  exact ⟨fun s => step_answers, exec_answers⟩

theorem max_memSize_eq {pc : Nat} (h : 4096 ≤ pc + 1) : max pc 4096 = if 4096 ≤ pc then pc else pc + 1 := by
  split_ifs <;> omega

theorem fetch_of_decode_error {s : State} {f : DecodeFailure} (h : s.pc.toNat + 1 < 4096)
    (hd : decode s.fetchWord = .error f) : s.fetch = .error (.decodeError s.fetchWord) := by
  rw [State.fetch_of_inside h, hd, ← word_of_decode_error hd]

theorem stepError_of_fetch_error {s : State} {e : Error} (h : s.fetch = .error e) : stepError s = some e := by
  by_cases hout : 4096 ≤ s.pc.toNat + 1
  · rw [State.fetch_of_outside hout, max_memSize_eq hout] at h
    cases h
    rw [stepError, if_pos hout]
  · rw [stepError, if_neg hout]
    cases hd : decode s.fetchWord with
    | error f =>
      rw [fetch_of_decode_error (by omega) hd] at h
      cases h; rfl
    | ok i =>
      rw [(State.fetch_eq_ok_iff s i).2 ⟨by omega, hd⟩] at h
      cases h

theorem stepError_of_fetch_ok {s : State} {i : Instr} (h : s.fetch = .ok i) : stepError s = applyError i s := by
  obtain ⟨hin, hd⟩ := (State.fetch_eq_ok_iff s i).1 h
  rw [stepError, if_neg (by omega), hd]

/-- Settles O13: the fetch's two errors come before the instruction's check, which sees the same `I` and `SP`. -/
theorem stepRaisesExactlyTheNamedErrors : Obligations.StepRaisesExactlyTheNamedErrors := by
  unfold Obligations.StepRaisesExactlyTheNamedErrors
  refine ⟨fun s hs => ?_, fun _ _ _ => ⟨rfl, rfl, rfl, rfl, rfl⟩⟩
  obtain ⟨t, ht⟩ := step_answers hs
  refine ⟨t, ht, ?_⟩
  obtain ⟨-, ⟨e, hf, rfl⟩ | ⟨i, hf, hexec⟩⟩ := step_next_cases ht
  · exact (stepError_of_fetch_error hf).symm
  · rw [exec_fault (s := s.beginTurn.advance) hs hexec, stepError_of_fetch_ok hf]
    exact applyError_congr i rfl rfl

/-- Settles O8: the fetch's bounds, decoding and `apply`, in the state the host's turn leaves. -/
theorem stepRunsTheDecodedInstruction : Obligations.StepRunsTheDecodedInstruction := by
  unfold Obligations.StepRunsTheDecodedInstruction
  rintro s b rfl
  refine ⟨fun e => step_of_fault, fun hs hout => ?_, fun hs hin w hw => ?_⟩
  · rw [step_of_fetch_error hs (State.fetch_of_outside hout), ← max_memSize_eq hout]
    rfl
  · obtain rfl : s.fetchWord = w := BitVec.eq_of_toNat_eq ((wordOfBytes_toNat _ _).trans hw.symm)
    refine ⟨fun f hd => step_of_fetch_error hs (fetch_of_decode_error hin hd), fun i hd => ?_⟩
    rw [step_of_fetch_ok hs ((State.fetch_eq_ok_iff s i).2 ⟨hin, hd⟩), ← nextAddr_eq_ofNat]
    rfl

/-- An instruction that raises an error leaves its state with that error alone (R214). -/
theorem eq_raised_of_exec {i : Instr} {s t : State} {e : Error} (hs : s.fault = none) (h : exec i s = .next t)
    (ht : t.fault = some e) : t = s.raised e := by
  have happly : applyError i s = some e := (exec_fault hs h).symm.trans ht
  rw [exec_of_applyError happly] at h
  cases h; rfl

/-- Settles O14: the fetch's error stands in the state of the fetch, an instruction's in that state with `PC` advanced;
both are final. -/
theorem errorsLeaveNoPartialEffect : Obligations.ErrorsLeaveNoPartialEffect := by
  unfold Obligations.ErrorsLeaveNoPartialEffect
  refine ⟨fun i s t e => eq_raised_of_exec, fun s t e hs hstep ht => ?_, fun s t e _ _ ht => ?_⟩
  · obtain ⟨-, ⟨e', hf, rfl⟩ | ⟨i, hf, hexec⟩⟩ := step_next_cases hstep
    · cases ht
      exact .inl ⟨rfl, fun i hi => by rw [hf] at hi; cases hi⟩
    · refine .inr ⟨?_, i, hf⟩
      rw [eq_raised_of_exec (s := s.beginTurn.advance) hs hexec ht, ← nextAddr_eq_ofNat]
      rfl
  · exact ⟨step_of_fault ht, tick_of_fault ht⟩

end Sys2Proof.Machine
end

section
/-! Ticks (R222): any number of them as one update of the timers, and the host's turn that makes them. -/

namespace Sys2Proof.Machine

theorem tick_of_noFault {s : State} (h : s.fault = none) : tick s = .next (s.afterTicks 1) := by
  rw [tick, h]

theorem afterTicks_zero (s : State) : s.afterTicks 0 = s := by
  rw [State.afterTicks, countdown_zero, countdown_zero]

/-- Ticks one after another are one update (R222). -/
theorem runTicks_eq (n : Nat) {s : State} (h : s.fault = none) : runTicks n s = .next (s.afterTicks n) := by
  induction n generalizing s with
  | zero => rw [runTicks, afterTicks_zero]
  | succ n ih => rw [runTicks, tick_of_noFault h, ← Nat.add_comm 1, ← State.afterTicks_afterTicks]; exact ih h

theorem nextTurn_of_cons {s : State} {t : Turn} {ts : List Turn} (h : s.turns = t :: ts) : s.nextTurn = t := by
  rw [State.nextTurn, h]

/-- Settles O9: the turn's ticks are the one update that the fetch's state has. -/
theorem turnTicksThenTakesInputs : Obligations.TurnTicksThenTakesInputs := by
  unfold Obligations.TurnTicksThenTakesInputs
  intro s t ts hturns hs
  have hturn := nextTurn_of_cons hturns
  refine ⟨?_, ?_, ?_, ?_⟩
  · rw [runTicks_eq _ hs, ← hturn]; rfl
  · rw [State.beginTurn_dt, hturn, countdown_toNat]
  · rw [State.beginTurn_st, hturn, countdown_toNat]
  · rw [State.beginTurn, hturn, hturns]; rfl

theorem countdown_one_toNat (b : Byte) :
    (countdown 1 b).toNat = if 0 < b.toNat then b.toNat - 1 else b.toNat := by
  rw [countdown_toNat]
  split_ifs <;> omega

/-- Settles O10: one tick is the update by one, and a listed turn of `n` ticks begins with the update by `n`. -/
theorem tickCountsBothTimersDown : Obligations.TickCountsBothTimersDown := by
  unfold Obligations.TickCountsBothTimersDown
  refine fun s => ⟨fun hs => ?_, fun hs t => ?_, fun hs n inp => ?_⟩
  · exact ⟨_, tick_of_noFault hs, countdown_one_toNat s.dt, countdown_one_toNat s.st, rfl⟩
  · obtain ⟨e, he⟩ := Option.ne_none_iff_exists'.1 hs
    rw [tick_of_fault he]
    exact nofun
  · exact ⟨_, runTicks_eq n hs, rfl⟩

end Sys2Proof.Machine
end


section
/-! What an instruction leaves unchanged, part by part (R23 to R30), and what it reads: the frame of the state above,
over all instructions. -/

namespace Sys2Proof.Machine

theorem applied_await {i : Instr} (h : ∀ x, i ≠ .ldK x) (s : State) : (applied i s).await = s.await := by
  cases i with
  | ldK x => exact absurd rfl (h x)
  | readRegs x => rw [applied, State.setVs_await]
  | _ => rfl

theorem applied_mem {i : Instr} (hb : ∀ x, i ≠ .ldB x) (hs : ∀ x, i ≠ .storeRegs x) (s : State) :
    (applied i s).mem = s.mem := by
  cases i with
  | ldB x => exact absurd rfl (hb x)
  | storeRegs x => exact absurd rfl (hs x)
  | ldK x => rw [applied, keyWait_eq]
  | readRegs x => rw [applied, State.setVs_mem]
  | _ => rfl

theorem applied_stack {i : Instr} (h : ∀ nnn, i ≠ .call nnn) (s : State) : (applied i s).stack = s.stack := by
  cases i with
  | call nnn => exact absurd rfl (h nnn)
  | ldK x => rw [applied, keyWait_eq]
  | readRegs x => rw [applied, State.setVs_stack]
  | _ => rfl

theorem applied_sp {i : Instr} (hc : ∀ nnn, i ≠ .call nnn) (hr : i ≠ .ret) (s : State) :
    (applied i s).sp = s.sp := by
  cases i with
  | call nnn => exact absurd rfl (hc nnn)
  | ret => exact absurd rfl hr
  | ldK x => rw [applied, keyWait_eq]
  | readRegs x => rw [applied, State.setVs_sp]
  | _ => rfl

theorem applied_pc {i : Instr} (h : writesPC i = false) (s : State) : (applied i s).pc = s.pc := by
  cases i with
  | ret | jp | call | seImm | sneImm | seReg | sneReg | jpV0 | skp | sknp | ldK => cases h
  | readRegs x => rw [applied, State.setVs_pc]
  | _ => rfl

theorem applied_i {i : Instr} (hl : ∀ nnn, i ≠ .ldI nnn) (ha : ∀ x, i ≠ .addI x) (hf : ∀ x, i ≠ .ldF x) (s : State) :
    (applied i s).i = s.i := by
  cases i with
  | ldI nnn => exact absurd rfl (hl nnn)
  | addI x => exact absurd rfl (ha x)
  | ldF x => exact absurd rfl (hf x)
  | ldK x => rw [applied, keyWait_eq]
  | readRegs x => rw [applied, State.setVs_i]
  | _ => rfl

theorem applied_dt {i : Instr} (h : ∀ x, i ≠ .ldDtVx x) (s : State) : (applied i s).dt = s.dt := by
  cases i with
  | ldDtVx x => exact absurd rfl (h x)
  | ldK x => rw [applied, keyWait_eq]
  | readRegs x => rw [applied, State.setVs_dt]
  | _ => rfl

theorem applied_st {i : Instr} (h : ∀ x, i ≠ .ldStVx x) (s : State) : (applied i s).st = s.st := by
  cases i with
  | ldStVx x => exact absurd rfl (h x)
  | ldK x => rw [applied, keyWait_eq]
  | readRegs x => rw [applied, State.setVs_st]
  | _ => rfl

theorem applied_disp {i : Instr} (hc : i ≠ .cls) (hd : ∀ x y n, i ≠ .drw x y n) (s : State) :
    (applied i s).disp = s.disp := by
  cases i with
  | cls => exact absurd rfl hc
  | drw x y n => exact absurd rfl (hd x y n)
  | ldK x => rw [applied, keyWait_eq]
  | readRegs x => rw [applied, State.setVs_disp]
  | _ => rfl

theorem applied_host (i : Instr) (s : State) : KeepsHost s (applied i s) := by
  cases i with
  | ldK x => rw [applied, keyWait_eq]; exact ⟨rfl, rfl, rfl⟩
  | readRegs x => exact ⟨State.setVs_inputs .., State.setVs_turns .., State.setVs_turnCount ..⟩
  | _ => exact ⟨rfl, rfl, rfl⟩

/-- Settles O20: a raised error writes none of these parts, and each part has its frame above. -/
theorem onlyNamedInstructionsWriteEachPart : Obligations.OnlyNamedInstructionsWriteEachPart := by
  unfold Obligations.OnlyNamedInstructionsWriteEachPart
  intro i s t h
  obtain ⟨e, -, rfl⟩ | ⟨-, rfl⟩ := exec_cases h
  · exact ⟨fun _ _ _ => rfl, fun _ => rfl, fun _ => rfl, fun _ _ => ⟨rfl, rfl⟩, fun _ _ _ _ => rfl, fun _ _ _ => rfl,
      fun _ => rfl, fun _ => rfl, rfl, rfl, rfl⟩
  · exact ⟨fun hl ha hf => applied_i hl ha hf s, fun hx => applied_dt hx s, fun hx => applied_st hx s,
      fun hc hr => ⟨applied_sp hc hr s, applied_stack hc s⟩,
      fun hc hd c r => congrArg (·.pixel c r) (applied_disp hc hd s),
      fun hb hs a => congrArg (·.read a) (applied_mem hb hs s),
      fun hx => applied_await hx s, fun hx => applied_pc hx s, applied_host i s⟩

/-! ### The general registers -/

theorem keepsRegs_setV (s : State) (x : RegIdx) (b : Byte) : KeepsRegs [x] s (s.setV x b) := fun r hr =>
  (getElem_setReg s.v x r b).trans (if_neg (Ne.symm (List.ne_of_not_mem_cons hr)))

theorem keepsRegs_setFlagThen (s : State) (flag : Bool) (x : RegIdx) (b : Byte) :
    KeepsRegs [0xF, x] s (s.setFlagThen flag x b) := by
  intro r hr
  obtain ⟨hflag, hx⟩ : r ≠ 0xF ∧ r ≠ x := by simpa using hr
  exact getElem_setFlagThen_other s flag b hx hflag

theorem keepsRegs_loadedRegs (s : State) (m : Memory) (base : Nat) (x : RegIdx) :
    KeepsRegs ((List.finRange 16).filter (· ≤ x)) s (s.setVs (loadedRegs s.v m base x)) := by
  intro r hr
  have hrx : ¬r ≤ x := by simpa using hr
  exact (getElem_loadedRegs s.v m base x r).trans (if_neg hrx)

theorem keepsRegs_keyWait (x : RegIdx) (s : State) (k : Option Key) : KeepsRegs [x] s (keyWait x s k) := by
  cases k with
  | none => exact fun _ _ => rfl
  | some k => exact keepsRegs_setV s x (keyByte k)

/-- An instruction writes no general register but those of the table of R23. -/
theorem applied_keepsRegs (i : Instr) (s : State) : KeepsRegs (destRegs i) s (applied i s) := by
  cases i with
  | ldImm | addImm | ldReg | or | and | xor | rnd | ldVxDt => exact keepsRegs_setV s _ _
  | addReg | sub | subn | shr | shl => exact keepsRegs_setFlagThen s _ _ _
  | drw x y n => exact keepsRegs_setV (s.setDisp _) 0xF _
  | readRegs x => exact keepsRegs_loadedRegs s _ _ x
  | ldK x => exact keepsRegs_keyWait x s _
  | _ => exact fun _ _ => rfl

/-- Settles O19: a raised error writes no register. -/
theorem onlyNamedRegistersAreWritten : Obligations.OnlyNamedRegistersAreWritten := by
  unfold Obligations.OnlyNamedRegistersAreWritten
  intro i s t h
  obtain ⟨e, -, rfl⟩ | ⟨-, rfl⟩ := exec_cases h
  · exact fun _ _ => rfl
  · exact applied_keepsRegs i s

/-! ### What an instruction does not read -/

theorem changesDisplay_iff (i : Instr) : changesDisplay i = true ↔ i = .cls ∨ ∃ x y n, i = .drw x y n := by
  cases i <;> simp [changesDisplay]

theorem applied_setEffects (i : Instr) (s : State) (r : Option SideEffects) :
    applied i { s with effects := r } = { applied i s with effects := r } := by
  cases i with
  | ldK x => simp only [applied]; cases s.inputs.newKey <;> rfl
  | _ => rfl

/-- Settles O21: the record answered is the one `done` writes, and a record set beforehand is overwritten. -/
theorem sideEffectRecordOfApply : Obligations.SideEffectRecordOfApply := by
  unfold Obligations.SideEffectRecordOfApply
  refine ⟨fun i s t _ h ht => ?_, fun i s r => ?_⟩
  · obtain ⟨e, -, rfl⟩ | ⟨-, rfl⟩ := exec_cases h
    · cases ht
    · exact ⟨_, rfl, changesDisplay_iff i, rfl⟩
  · have herr : applyError i { s with effects := r } = applyError i s := applyError_congr i rfl rfl
    rw [exec_eq, exec_eq, herr, applied_setEffects]
    rfl

/-- The inputs an instruction reads are `RANDOM` for `Rnd`, `KEYDOWN` for the key skips and `NEWKEY` for `LdK`. -/
theorem applied_setInputs {i : Instr} {s : State} {inp : Inputs}
    (hrnd : ∀ x kk, i = .rnd x kk → inp.random = s.inputs.random)
    (hkeys : ∀ x, i = .skp x ∨ i = .sknp x → inp.keysDown = s.inputs.keysDown)
    (hnew : ∀ x, i = .ldK x → inp.newKey = s.inputs.newKey) :
    applied i { s with inputs := inp } = { applied i s with inputs := inp } := by
  cases i with
  | rnd x kk => simp only [applied, hrnd x kk rfl]; rfl
  | skp x => simp only [applied, keyIsDown, hkeys x (.inl rfl)]; rfl
  | sknp x => simp only [applied, keyIsDown, hkeys x (.inr rfl)]; rfl
  | ldK x =>
    simp only [applied, hnew x rfl]
    cases s.inputs.newKey <;> rfl
  | _ => rfl

/-- Settles O22: neither the checks nor the rest of an instruction reads another input. -/
theorem inputsReachOnlyTheirInstructions : Obligations.InputsReachOnlyTheirInstructions := by
  unfold Obligations.InputsReachOnlyTheirInstructions
  intro i s t inp h hrnd hkeys hnew
  have herr : applyError i { s with inputs := inp } = applyError i s := applyError_congr i rfl rfl
  obtain ⟨e, he, rfl⟩ | ⟨he, rfl⟩ := exec_cases h
  · rw [exec_of_applyError (herr.trans he)]; rfl
  · rw [exec_of_noError (herr.trans he), applied_setInputs hrnd hkeys hnew]; rfl

/-! ### Stale stack entries -/

theorem applied_setStack {i : Instr} (hc : ∀ nnn, i ≠ .call nnn) (hr : i ≠ .ret) (s : State) (st : Vector Word 16) :
    applied i { s with stack := st } = { applied i s with stack := st } := by
  cases i with
  | call nnn => exact absurd rfl (hc nnn)
  | ret => exact absurd rfl hr
  | ldK x => simp only [applied]; cases s.inputs.newKey <;> rfl
  | _ => rfl

theorem sameButStale_of_setStack {s a b : State} {st : Vector Word 16} (hb : b = { a with stack := st })
    (hstack : a.stack = s.stack) (hsp : a.sp = s.sp) (hst : ∀ k : Fin 16, k.val < s.sp.val → st[k] = s.stack[k]) :
    SameButStale a b := by
  subst hb
  refine ⟨rfl, ?_⟩
  rw [hstack, hsp]
  exact hst

/-- `Call` pushes the same entry in both states, `Ret` reads a live entry, and nothing else looks at the stack. -/
theorem applied_sameButStale {i : Instr} {s : State} {st : Vector Word 16} (h : applyError i s = none)
    (hst : ∀ k : Fin 16, k.val < s.sp.val → st[k] = s.stack[k]) :
    SameButStale (applied i s) (applied i { s with stack := st }) := by
  by_cases hcall : ∃ nnn, i = .call nnn
  · obtain ⟨nnn, rfl⟩ := hcall
    obtain ⟨k, hk⟩ := room_of_noError h
    rw [applied_call_of_room hk, applied_call_of_room (s := { s with stack := st }) hk]
    refine ⟨rfl, fun j hj => ?_⟩
    have hj : j.val < k.val + 1 := hj
    rcases eq_or_ne k.val j.val with htop | htop
    · simp [htop]
    · have hbelow := hst j (by omega)
      simpa [htop] using hbelow
  by_cases hret : i = .ret
  · subst hret
    obtain ⟨k, hk⟩ := live_of_noError h
    rw [applied_ret_of_live hk, applied_ret_of_live (s := { s with stack := st }) hk]
    refine ⟨?_, fun j hj => hst j ?_⟩
    · rw [hst k (by omega)]
    · exact hk ▸ Nat.lt_succ_of_lt hj
  · have hcall : ∀ nnn, i ≠ .call nnn := not_exists.1 hcall
    exact sameButStale_of_setStack (applied_setStack hcall hret s st) (applied_stack hcall s)
      (applied_sp hcall hret s) hst

theorem exec_sameButStale {i : Instr} {s t : State} {st : Vector Word 16}
    (hst : ∀ k : Fin 16, k.val < s.sp.val → st[k] = s.stack[k]) (h : exec i s = .next t) :
    ∃ t', exec i { s with stack := st } = .next t' ∧ SameButStale t t' := by
  have herr : applyError i { s with stack := st } = applyError i s := applyError_congr i rfl rfl
  obtain ⟨e, he, rfl⟩ | ⟨he, rfl⟩ := exec_cases h
  · exact ⟨_, exec_of_applyError (herr.trans he), rfl, hst⟩
  · obtain ⟨happlied, hlive⟩ := applied_sameButStale he hst
    refine ⟨_, exec_of_noError (herr.trans he), ?_, hlive⟩
    rw [happlied]

/-- Settles O23: the two states fetch the same instruction, and it does the same in both. -/
theorem staleStackEntriesAreNeverSeen : Obligations.StaleStackEntriesAreNeverSeen := by
  unfold Obligations.StaleStackEntriesAreNeverSeen
  rintro s s' t ⟨hs', hst⟩ h
  obtain ⟨st, rfl⟩ : ∃ st, s' = { s with stack := st } := ⟨_, hs'⟩
  obtain ⟨hs, ⟨e, hf, rfl⟩ | ⟨i, hf, hexec⟩⟩ := step_next_cases h
  · exact ⟨_, step_of_fetch_error (s := { s with stack := st }) hs hf, rfl, hst⟩
  · rw [step_of_fetch_ok (s := { s with stack := st }) hs hf]
    exact exec_sameButStale (s := s.beginTurn.advance) hst hexec

end Sys2Proof.Machine
end

section
/-! The invariant of every run (R27, R28, R30, R44): it holds at boot, and every step and every tick keeps it. -/

namespace Sys2Proof.Machine

/-! ### What an instruction does to each part of the invariant -/

/-- A store inside memory keeps the canonical form; nothing else writes memory. -/
theorem applied_mem_wf {i : Instr} {s : State} (hmem : s.mem.wf = true) (h : applyError i s = none) :
    (applied i s).mem.wf = true := by
  cases i with
  | ldB x => exact Memory.wf_writeBytes hmem _ _ ((rangeError_eq_none_iff.1 h).resolve_left (by decide))
  | storeRegs x =>
    refine Memory.wf_writeBytes hmem _ _ ?_
    rw [length_storedRegs]
    exact (rangeError_eq_none_iff.1 h).resolve_left (Nat.succ_ne_zero _)
  | _ => rw [applied_mem (by simp) (by simp)]; exact hmem

/-- Live stack entries are addresses after a `Call` (R107). -/
def ReturnsInRange (s : State) : Prop :=
  ∀ k : Fin 16, k.val < s.sp.val → 2 ≤ s.stack[k].toNat ∧ s.stack[k].toNat ≤ 0x1000

theorem skipIf_pc_le {s : State} (h : s.pc.toNat ≤ 0x1000) (c : Bool) : (s.skipIf c).pc.toNat ≤ 0x10FE := by
  rw [State.skipIf_pc]
  split
  · rw [nextAddr_toNat]; omega
  · omega

/-- From an advanced `PC` no instruction leaves the range that R112 gives. -/
theorem applied_pc_le {i : Instr} {s : State} (hle : s.pc.toNat ≤ 0x1000) (hge : 2 ≤ s.pc.toNat)
    (hret : ReturnsInRange s) (h : applyError i s = none) : (applied i s).pc.toNat ≤ 0x10FE := by
  cases i with
  | ret =>
    obtain ⟨k, hk⟩ := live_of_noError h
    rw [applied_ret_of_live hk]
    exact (hret k (by omega)).2.trans (by decide)
  | jp nnn | call nnn =>
    have hnnn := nnn.isLt
    show (zext16 nnn).toNat ≤ _
    rw [zext16_toNat]; omega
  | jpV0 nnn =>
    have hnnn := nnn.isLt
    have hv := (s.v[(0 : RegIdx)]).isLt
    show (addToWord (zext16 nnn) _).toNat ≤ _
    rw [addToWord_toNat, zext16_toNat]; omega
  | seImm | sneImm | seReg | sneReg | skp | sknp => exact skipIf_pc_le hle _
  | ldK x =>
    show (keyWait x s s.inputs.newKey).pc.toNat ≤ _
    cases s.inputs.newKey with
    | none =>
      show (prevAddr s.pc).toNat ≤ _
      rw [prevAddr_toNat]; omega
    | some k => exact hle.trans (by decide)
  | _ => rw [applied_pc rfl]; omega

/-- `Call` pushes the advanced `PC`, `Ret` leaves fewer entries live, and no other instruction touches the stack. -/
theorem applied_returns {i : Instr} {s : State} (hle : s.pc.toNat ≤ 0x1000) (hge : 2 ≤ s.pc.toNat)
    (hret : ReturnsInRange s) (h : applyError i s = none) : ReturnsInRange (applied i s) := by
  cases i with
  | ret => exact fun k hk => hret k (lt_of_lt_of_le hk (Nat.sub_le _ _))
  | call nnn =>
    obtain ⟨k, hk⟩ := room_of_noError h
    rw [applied_call_of_room hk]
    intro j hj
    have hj : j.val < k.val + 1 := hj
    rcases eq_or_ne k.val j.val with htop | htop
    · simpa [htop] using And.intro hge hle
    · have hbelow := hret j (by omega)
      simpa [htop] using hbelow
  | _ =>
    unfold ReturnsInRange
    rw [applied_sp (by simp) (by simp), applied_stack (by simp)]
    exact hret

/-! ### The invariant along a run -/

/-- Outside a wait for a key `AWAIT` is off: the word at `PC` is no `LdK`. -/
theorem State.Inv.await_eq_false {s : State} (h : s.Inv) (hf : ∀ x, s.fetch ≠ .ok (.ldK x)) : s.await = false := by
  refine Bool.eq_false_iff.2 fun ha => ?_
  obtain ⟨-, -, x, hx⟩ := h.await ha
  exact hf x hx

/-- An error of the fetch or of an instruction changes nothing the invariant speaks of but `FAULT` and the record. -/
theorem inv_raised {s : State} {e : Error} (hmem : s.mem.wf = true) (hawait : s.await = false)
    (hpc : s.pc.toNat ≤ 0x10FE) (hret : ReturnsInRange s) : (s.raised e).Inv where
  mem := hmem
  await := fun h => Bool.noConfusion (hawait.symm.trans h)
  record := nofun
  stopped := fun _ => rfl
  pc := hpc
  returns := hret

/-- A `LdK` that gets no key moves `PC` back over the advance, so the next fetch answers it again (R193). -/
theorem fetch_keyWait_none (x : RegIdx) (s : State) (r : Option SideEffects) :
    State.fetch { keyWait x s.beginTurn.advance none with effects := r } = s.fetch :=
  State.fetch_congr (prevAddr_nextAddr s.pc) fun _ => rfl

/-- After an instruction `AWAIT` holds only if that was a `LdK` without a key, which moved `PC` back to itself. -/
theorem waiting_of_applied {i : Instr} {s : State} (hs : s.Inv) (hfault : s.fault = none) (hf : s.fetch = .ok i)
    {r : Option SideEffects} (h : (applied i s.beginTurn.advance).await = true) :
    State.Waiting { applied i s.beginTurn.advance with effects := r } := by
  refine ⟨h, (applied_fault i _).trans hfault, ?_⟩
  by_cases hi : ∃ x, i = .ldK x
  · obtain ⟨x, rfl⟩ := hi
    refine ⟨x, ?_⟩
    rw [applied] at h ⊢
    cases hkey : s.beginTurn.advance.inputs.newKey with
    | none => exact (fetch_keyWait_none x s r).trans hf
    | some k => rw [hkey] at h; cases h
  · rw [applied_await (not_exists.1 hi)] at h
    obtain ⟨-, -, x, hx⟩ := hs.await h
    exact absurd ⟨x, Except.ok.inj (hf.symm.trans hx)⟩ hi

theorem step_keeps_inv {s t : State} (hs : s.Inv) (h : step s = .next t) : t.Inv := by
  obtain ⟨hfault, ⟨e, hf, rfl⟩ | ⟨i, hf, hexec⟩⟩ := step_next_cases h
  · have hawait : s.await = false := hs.await_eq_false fun x hx => by rw [hf] at hx; cases hx
    exact inv_raised (s := s.beginTurn) hs.mem hawait hs.pc hs.returns
  have hin := ((State.fetch_eq_ok_iff s i).1 hf).1
  have hpc : (nextAddr s.pc).toNat = s.pc.toNat + 2 := by rw [nextAddr_toNat]; omega
  have hpc_le : s.beginTurn.advance.pc.toNat ≤ 0x1000 := by rw [State.advance_pc, State.beginTurn_pc, hpc]; omega
  have hpc_ge : 2 ≤ s.beginTurn.advance.pc.toNat := by rw [State.advance_pc, State.beginTurn_pc, hpc]; omega
  obtain ⟨e, he, rfl⟩ | ⟨he, rfl⟩ := exec_cases hexec
  · have hawait : s.await = false := hs.await_eq_false fun x hx => by
      cases Except.ok.inj (hf.symm.trans hx); cases he
    exact inv_raised (s := s.beginTurn.advance) hs.mem hawait (hpc_le.trans (by decide)) hs.returns
  · have hnofault := (applied_fault i s.beginTurn.advance).trans hfault
    exact {
      mem := applied_mem_wf hs.mem he
      await := waiting_of_applied hs hfault hf
      record := fun r hr => by cases hr; rfl
      stopped := fun hne => absurd hnofault hne
      pc := applied_pc_le hpc_le hpc_ge hs.returns he
      returns := applied_returns hpc_le hpc_ge hs.returns he }

theorem tick_keeps_inv {s t : State} (hs : s.Inv) (h : tick s = .next t) : t.Inv := by
  cases hfault : s.fault with
  | some e => rw [tick_of_fault hfault] at h; cases h
  | none =>
    rw [tick_of_noFault hfault] at h
    cases h
    exact ⟨hs.mem, hs.await, hs.record, hs.stopped, hs.pc, hs.returns⟩

/-- Settles O17: a transition is a step or a tick. -/
theorem transitionsKeepInvariant : Obligations.TransitionsKeepInvariant := by
  unfold Obligations.TransitionsKeepInvariant
  intro s t hs h
  cases h with
  | step h => exact step_keeps_inv hs h
  | tick h => exact tick_keeps_inv hs h

/-! ### Reset and boot -/

/-- Settles O15: the registers, the stack and the display are replicated values. -/
theorem resetLeavesTheNamedValues : Obligations.ResetLeavesTheNamedValues := by
  unfold Obligations.ResetLeavesTheNamedValues
  exact ⟨fun r => Vector.getElem_replicate r.isLt, rfl, rfl, rfl, rfl, fun k => Vector.getElem_replicate k.isLt,
    Display.pixel_clear, rfl, rfl, rfl⟩

theorem inv_boot {image : Memory} (turns : List Turn) (h : image.wf = true) :
    State.Inv { State.boot image with turns := turns } where
  mem := h
  await := nofun
  record := nofun
  stopped := fun _ => rfl
  pc := show 0x200 ≤ 0x10FE by decide
  returns := fun _ hk => absurd hk (Nat.not_lt_zero _)

/-- Settles O16: reset is the boot state of the empty image. -/
theorem bootMeetsInvariant : Obligations.BootMeetsInvariant := by
  unfold Obligations.BootMeetsInvariant
  exact ⟨inv_boot (image := []) [] Memory.wf_nil, fun image turns => inv_boot turns⟩

/-- Settles O18: by induction on the run. -/
theorem reachableStatesMeetInvariant : Obligations.ReachableStatesMeetInvariant := by
  unfold Obligations.ReachableStatesMeetInvariant
  intro s hs
  induction hs with
  | boot image turns h => exact inv_boot turns h
  | transition _ h ih => exact transitionsKeepInvariant _ _ ih h

end Sys2Proof.Machine
end

section
/-! At rest (D34) and waiting for a key (D17): the step that repeats its own instruction. -/

namespace Sys2Proof.Machine

/-- Settles O24: the jump puts `PC` back where the fetch read it, so the next fetch answers the same jump. -/
theorem atRestNothingChangesButTimers : Obligations.AtRestNothingChangesButTimers := by
  unfold Obligations.AtRestNothingChangesButTimers
  rintro s ⟨hs, nnn, hf, hself⟩
  have hpc : zext16 nnn = s.pc := BitVec.eq_of_toNat_eq ((zext16_toNat nnn).trans hself)
  have hstep : step s = done false (s.beginTurn.advance.setPC s.pc) := by
    rw [step_of_fetch_ok hs hf, exec, execJp, hpc]
  refine ⟨_, hstep, ⟨hs, nnn, ?_, hself⟩, rfl, fun _ _ => rfl, rfl, ⟨rfl, rfl⟩, fun _ => rfl, fun _ _ => rfl,
    ⟨rfl, rfl⟩, countdown_toNat _ _, countdown_toNat _ _⟩
  exact (State.fetch_congr (s := s) rfl fun _ => rfl).trans hf

/-- Settles O25: without a new key `LdK` puts `PC` back over the advance, so the next fetch answers the same `LdK`. -/
theorem waitingStepRepeatsTheSameLdK : Obligations.WaitingStepRepeatsTheSameLdK := by
  unfold Obligations.WaitingStepRepeatsTheSameLdK
  intro s x hs hf hkey
  have hstep : step s = done false (keyWait x s.beginTurn.advance none) := by
    rw [step_of_fetch_ok hs hf, exec, execLdK, State.advance_inputs, State.beginTurn_inputs, hkey]
  have hfetch := (fetch_keyWait_none x s (some ⟨false, true⟩)).trans hf
  exact ⟨_, hstep, ⟨rfl, hs, x, hfetch⟩, hfetch, prevAddr_nextAddr s.pc, fun _ _ => rfl, rfl, ⟨rfl, rfl⟩, fun _ => rfl,
    fun _ _ => rfl, rfl, countdown_toNat _ _, countdown_toNat _ _⟩

end Sys2Proof.Machine
end

section
/-! Control transfer: `Sys`, the jumps, a `Call` with its `Ret`, and the key skips (R104, R106, R112, R190, R191). -/

namespace Sys2Proof.Machine

/-- Settles O26: the meaning of `Sys` is the raise itself. -/
theorem sysRaisesUnsupportedInstruction : Obligations.SysRaisesUnsupportedInstruction := by
  unfold Obligations.SysRaisesUnsupportedInstruction
  exact fun s nnn => rfl

theorem jpV0_target (nnn : Addr12) (b : Byte) : (addToWord (zext16 nnn) b).toNat = nnn.toNat + b.toNat := by
  have hnnn := nnn.isLt
  have hb := b.isLt
  rw [addToWord_toNat, zext16_toNat]
  omega

/-- Settles O28: each is one write to `PC`; the sum of a 12-bit address and a byte stays below 65536. -/
theorem jumpsSetTheProgramCounter : Obligations.JumpsSetTheProgramCounter := by
  unfold Obligations.JumpsSetTheProgramCounter
  exact fun s nnn => ⟨controlOnly_of_done rfl (zext16_toNat nnn), controlOnly_of_done rfl (jpV0_target nnn _)⟩

/-- Settles O30: `Ret` pops the entry that `Call` pushed. -/
theorem retAfterCallResumesAfterTheCall : Obligations.RetAfterCallResumesAfterTheCall := by
  unfold Obligations.RetAfterCallResumesAfterTheCall
  intro s nnn hroom
  obtain ⟨k, hk⟩ : ∃ k : Fin 16, s.sp.val = k.val := ⟨⟨s.sp.val, hroom⟩, rfl⟩
  refine ⟨_, _, exec_call_of_push nnn (State.push?_of_room hk s.pc), exec_ret_of_pop (State.pop?_of_live (k := k) rfl),
    ?_, ?_, fun _ _ => rfl, fun j hj => ?_⟩
  · exact Vector.getElem_set_self k.isLt
  · exact Fin.ext hk.symm
  · exact Vector.getElem_set_ne k.isLt j.isLt (hk ▸ hj.symm)

/-- Settles O32: each is `skip_if` of the key's state; a code that names no key counts as not down. -/
theorem keySkipsFollowTheKeyState : Obligations.KeySkipsFollowTheKeyState := by
  unfold Obligations.KeySkipsFollowTheKeyState
  refine fun s x => ⟨fun k hk => ?_, fun hx => ?_⟩
  · have hdown := keyIsDown_of_lt s.inputs s.v[x] k hk
    exact ⟨skipsWhen_of_skipIf rfl (by rw [hdown]), skipsWhen_of_skipIf rfl (by rw [hdown, Bool.not_eq_true'])⟩
  · have hup := keyIsDown_of_ge s.inputs s.v[x] hx
    exact ⟨skipsWhen_of_skipIf rfl (by rw [hup]; simp), skipsWhen_of_skipIf rfl (by rw [hup]; simp)⟩

end Sys2Proof.Machine
end

section
/-! The register instructions (R132 to R143), each through the one register write, or flag and register write, that is
its meaning. -/

namespace Sys2Proof.Machine

/-- Settles O33: each is one register write. -/
theorem loadsAndAddImmediateWriteOneRegister : Obligations.LoadsAndAddImmediateWriteOneRegister := by
  unfold Obligations.LoadsAndAddImmediateWriteOneRegister
  refine fun s x y kk => ⟨registerOnly_of_setV rfl fun t ht => ht, registerOnly_of_setV rfl fun t ht => ?_,
    registerOnly_of_setV rfl fun t ht => ht⟩
  rw [ht, addBytes_toNat]

/-- Settles O34: each is one register write of the operation on bytes, which works bit by bit. -/
theorem logicWritesBitwiseResultsAndNoFlag : Obligations.LogicWritesBitwiseResultsAndNoFlag := by
  unfold Obligations.LogicWritesBitwiseResultsAndNoFlag
  refine fun s x y => ⟨registerOnly_of_setV rfl fun t ht k _ => ?_, registerOnly_of_setV rfl fun t ht k _ => ?_,
    registerOnly_of_setV rfl fun t ht k _ => ?_⟩
  · rw [ht, BitVec.getLsbD_or]
  · rw [ht, BitVec.getLsbD_and]
  · rw [ht, BitVec.getLsbD_xor]

theorem flagByte_noBorrowFlag (a b : Byte) :
    flagByte (noBorrowFlag a b) = if b.toNat ≤ a.toNat then 1#8 else 0#8 :=
  if_congr decide_eq_true_iff rfl rfl

/-- Settles O36: the flag and then the difference, both from the old operands. -/
theorem subtractionsWriteDifferenceAndNoBorrow : Obligations.SubtractionsWriteDifferenceAndNoBorrow := by
  unfold Obligations.SubtractionsWriteDifferenceAndNoBorrow
  refine fun s x y => ⟨registerOnly_of_setFlagThen rfl fun t hdiff hflag => ⟨?_, fun hx => ?_⟩,
    registerOnly_of_setFlagThen rfl fun t hdiff hflag => ⟨?_, fun hx => ?_⟩⟩
  · rw [hdiff, subBytes_toNat]
  · rw [hflag hx, flagByte_noBorrowFlag]
  · rw [hdiff, subBytes_toNat]
  · rw [hflag hx, flagByte_noBorrowFlag]

/-- Settles O37: the bit shifted out and then the shifted byte, both from the old `V[x]`. -/
theorem shiftsWriteResultAndBitShiftedOut : Obligations.ShiftsWriteResultAndBitShiftedOut := by
  unfold Obligations.ShiftsWriteResultAndBitShiftedOut
  refine fun s x y => ⟨registerOnly_of_setFlagThen rfl fun t hres hflag => ⟨?_, fun hx => ?_⟩,
    registerOnly_of_setFlagThen rfl fun t hres hflag => ⟨?_, fun hx => ?_⟩⟩
  · rw [hres, halveByte_toNat]
  · rw [hflag hx, lowBitFlag_toNat]
  · rw [hres, doubleByte_toNat]
  · rw [hflag hx, highBitFlag_toNat]

/-- Settles O38: one register write of the masked byte. -/
theorem rndMasksTheRandomByte : Obligations.RndMasksTheRandomByte := by
  unfold Obligations.RndMasksTheRandomByte
  refine fun s x kk => registerOnly_of_setV rfl fun t ht k _ => ?_
  rw [ht, BitVec.getLsbD_and]

end Sys2Proof.Machine
end

section
/-! The address register and the transfers between registers and memory (R160 to R165, R242). -/

namespace Sys2Proof.Machine

/-- Completing after a write to `I` writes nothing else (R24). -/
theorem indexOnly_of_done {i : Instr} {s : State} {w : Word} {post : State → Prop}
    (h : exec i s = done false (s.setI w)) (hpost : ∀ t : State, t.i = w → t.mem = s.mem → post t) :
    IndexOnly i s post :=
  ⟨_, h, hpost _ rfl rfl, fun _ _ => rfl, rfl, ⟨rfl, rfl⟩, ⟨rfl, rfl⟩, fun _ => rfl, fun _ _ => rfl, ⟨rfl, rfl⟩,
    ⟨rfl, rfl, rfl⟩, rfl⟩

/-- Settles O39: each is one write to `I`; the glyph addresses of all bytes stay below 65536. -/
theorem addressRegisterWrites : Obligations.AddressRegisterWrites := by
  unfold Obligations.AddressRegisterWrites
  refine fun s x nnn => ⟨indexOnly_of_done rfl fun t ht _ => ?_, indexOnly_of_done rfl fun t ht _ => ?_,
    indexOnly_of_done rfl fun t ht _ => ?_⟩
  · rw [ht, zext16_toNat]
  · rw [ht, addToWord_toNat]
  · have hv := s.v[x].isLt
    rw [ht, glyphAddr_toNat, fontBase, fontStride]
    omega

theorem Memory.take_drop_readBytes (m : Memory) (base : Nat) {n k j : Nat} (h : k + j ≤ n) :
    ((m.readBytes base n).drop k).take j = m.readBytes (base + k) j := by
  refine List.ext_getElem ?_ fun i hi hi' => ?_
  · simp only [List.length_take, List.length_drop, Memory.length_readBytes]
    omega
  · simp [Memory.getElem_readBytes, Nat.add_assoc]

/-- Settles O40: the glyph bytes in memory are the read of 80 bytes, and five of them from `5 * d` on are the digit's. -/
theorem ldFPointsAtTheGlyph : Obligations.LdFPointsAtTheGlyph := by
  unfold Obligations.LdFPointsAtTheGlyph
  refine fun s x hfont hdigit => indexOnly_of_done rfl fun t hi hmem => ?_
  have hglyphs : s.mem.readBytes fontBase 80 = fontGlyphs := eq_of_beq hfont
  rw [hi, hmem, glyphAddr_toNat, ← hglyphs]
  exact (Memory.take_drop_readBytes s.mem fontBase (by rw [fontStride]; omega)).symm

/-- Completing after stores to the `n` bytes from `base` writes nothing else (R53). -/
theorem storesOnly_of_done {i : Instr} {s : State} {base n : Nat} {bs : List Byte} {post : State → Prop}
    (h : exec i s = done false (s.setMem (s.mem.writeBytes base bs))) (hn : bs.length = n)
    (hpost : ∀ t : State, t.mem = s.mem.writeBytes base bs → post t) : StoresOnly i s base n post :=
  ⟨_, h, hpost _ rfl, fun _ ha => Memory.read_writeBytes_outside _ _ _ (hn ▸ ha), fun _ _ => rfl, rfl, rfl,
    ⟨rfl, rfl⟩, ⟨rfl, rfl⟩, fun _ _ => rfl, ⟨rfl, rfl⟩, ⟨rfl, rfl, rfl⟩, rfl⟩

theorem exec_ldB_of_inside {s : State} (x : RegIdx) (h : s.i.toNat + 2 < 4096) :
    exec (.ldB x) s = done false (s.setMem (s.mem.writeBytes s.i.toNat (decimalDigits s.v[x]))) :=
  withRange_of_inside s _ (.inr (by omega))

theorem exec_storeRegs_of_inside {s : State} {x : RegIdx} (h : s.i.toNat + x.val < 4096) :
    exec (.storeRegs x) s = done false (s.setMem (s.mem.writeBytes s.i.toNat (storedRegs s.v x))) :=
  withRange_of_inside s _ (.inr (by omega))

theorem exec_readRegs_of_inside {s : State} {x : RegIdx} (h : s.i.toNat + x.val < 4096) :
    exec (.readRegs x) s = done false (s.setVs (loadedRegs s.v s.mem s.i.toNat x)) :=
  withRange_of_inside s _ (.inr (by omega))

/-- Settles O41: the check's two answers; inside memory each digit is read back from its address. -/
theorem ldBStoresDecimalDigits : Obligations.LdBStoresDecimalDigits := by
  unfold Obligations.LdBStoresDecimalDigits
  refine fun s x => ⟨fun hin => storesOnly_of_done (exec_ldB_of_inside x hin) rfl fun t hmem => ?_,
    fun hout => withRange_of_outside s _ (by decide) (by omega)⟩
  have hv := s.v[x].isLt
  simp only [hmem, read_writeBytes_decimalDigits]
  refine ⟨?_, ?_, ?_⟩ <;> simp [byteAfterLdB] <;> omega

/-- Settles O42: the check's two answers; inside memory each register is read back from its address. -/
theorem storeRegsCopiesRegistersToMemory : Obligations.StoreRegsCopiesRegistersToMemory := by
  unfold Obligations.StoreRegsCopiesRegistersToMemory
  refine fun s x => ⟨fun hin => ?_, fun hout => withRange_of_outside s _ (Nat.succ_ne_zero _) (by omega)⟩
  refine storesOnly_of_done (exec_storeRegs_of_inside hin) (length_storedRegs s.v x) fun t hmem r hr => ?_
  have hlen : r.val < (storedRegs s.v x).length := (length_storedRegs s.v x).symm ▸ Nat.lt_succ_of_le hr
  rw [hmem, Memory.read_writeBytes_inside _ _ _ hlen]
  exact getElem_storedRegs s.v x r hlen

/-- Completing after a write to the registers writes nothing else (R165). -/
theorem registerOnly_of_setVs {i : Instr} {s : State} {v : Vector Byte 16} {ds : List RegIdx} {post : State → Prop}
    (h : exec i s = done false (s.setVs v)) (hds : KeepsRegs ds s (s.setVs v))
    (hpost : ∀ t : State, t.v = v → post t) : RegisterOnly i s ds post :=
  ⟨_, h, hpost _ rfl, hds, rfl, rfl, ⟨rfl, rfl⟩, ⟨rfl, rfl⟩, fun _ => rfl, fun _ _ => rfl, ⟨rfl, rfl⟩,
    ⟨rfl, rfl, rfl⟩, rfl⟩

/-- Settles O43: the check's two answers; inside memory the loaded registers are the ones up to `x`. -/
theorem readRegsCopiesMemoryToRegisters : Obligations.ReadRegsCopiesMemoryToRegisters := by
  unfold Obligations.ReadRegsCopiesMemoryToRegisters
  refine fun s x => ⟨fun hin => ?_, fun hout => withRange_of_outside s _ (Nat.succ_ne_zero _) (by omega)⟩
  refine registerOnly_of_setVs (exec_readRegs_of_inside hin) (keepsRegs_loadedRegs s _ _ x) fun t ht r hr => ?_
  rw [ht, getElem_loadedRegs, if_pos hr]

/-- Settles O44: the loads read the bytes the stores left, and registers above `x` are not loaded. -/
theorem readRegsAfterStoreRegsRestores : Obligations.ReadRegsAfterStoreRegsRestores := by
  unfold Obligations.ReadRegsAfterStoreRegsRestores
  intro s x v hin
  obtain ⟨t, ht, hstored, -, -, hi, -⟩ := (storeRegsCopiesRegistersToMemory s x).1 hin
  have hin' : ({ t with v := v } : State).i.toNat + x.val < 4096 := by rw [show _ = s.i from hi]; exact hin
  obtain ⟨u, hu, hloaded, hkept, hi', -⟩ := (readRegsCopiesMemoryToRegisters { t with v := v } x).1 hin'
  refine ⟨t, u, ht, hi, hu, hi'.trans hi, fun r => ⟨fun hr => ?_, fun hr => ?_⟩⟩
  · rw [hloaded r hr, show ({ t with v := v } : State).i = s.i from hi]
    exact hstored r hr
  · exact hkept r (by simpa using hr)

/-- What a fetch inside memory answers, by the word it reads. -/
theorem fetchesWord_of_fetchWord {s : State} {w : Word} (h : s.pc.toNat + 1 < 4096) (hw : s.fetchWord = w) :
    FetchesWord w s := by
  subst hw
  exact ⟨fun i hd => (State.fetch_eq_ok_iff s i).2 ⟨h, hd⟩, fun f => fetch_of_decode_error h⟩

theorem fetchWord_eq {s : State} {w : Word}
    (hw : w.toNat = (s.mem.read s.pc.toNat).toNat * 256 + (s.mem.read (s.pc.toNat + 1)).toNat) : s.fetchWord = w :=
  BitVec.eq_of_toNat_eq ((wordOfBytes_toNat _ _).trans hw.symm)

/-- Settles O45: the next fetch reads both bytes of its word from the memory the stores left. -/
theorem fetchSeesEarlierStores : Obligations.FetchSeesEarlierStores := by
  unfold Obligations.FetchSeesEarlierStores
  refine fun s x w hpc => ⟨fun hin hw => ?_, fun hin hw => ?_⟩
  · refine ⟨_, exec_storeRegs_of_inside hin, rfl, fetchesWord_of_fetchWord hpc (fetchWord_eq ?_)⟩
    rw [← read_writeBytes_storedRegs, ← read_writeBytes_storedRegs] at hw
    exact hw
  · refine ⟨_, exec_ldB_of_inside x hin, rfl, fetchesWord_of_fetchWord hpc (fetchWord_eq ?_)⟩
    rw [← read_writeBytes_decimalDigits, ← read_writeBytes_decimalDigits] at hw
    exact hw

end Sys2Proof.Machine
end

section
/-! The display instructions (R180, R181) and the wait for a key (R193). -/

namespace Sys2Proof.Machine

/-- Completing after writes to the registers and the display writes nothing else (R29). -/
theorem displayOnly_of_done {i : Instr} {s : State} {d : Display} {v : Vector Byte 16} {ds : List RegIdx}
    {post : State → Prop} (h : exec i s = done true { s with disp := d, v := v }) (hds : KeepsRegs ds s (s.setVs v))
    (hpost : ∀ t : State, t.disp = d → t.v = v → post t) : DisplayOnly i s ds post :=
  ⟨_, h, hpost _ rfl rfl, hds, rfl, rfl, ⟨rfl, rfl⟩, ⟨rfl, rfl⟩, fun _ => rfl, ⟨rfl, rfl⟩, ⟨rfl, rfl, rfl⟩, rfl⟩

/-- Settles O46: the one write is the display with every cell off. -/
theorem clsTurnsEveryCellOff : Obligations.ClsTurnsEveryCellOff := by
  unfold Obligations.ClsTurnsEveryCellOff
  refine fun s => displayOnly_of_done (d := Display.clear) (v := s.v) rfl (fun _ _ => rfl) fun t hd _ c r => ?_
  rw [hd, Display.pixel_clear]

/-- The cells the sprite at `I` falls on, in the two forms: over the bytes read, and over memory. -/
theorem spriteHit_readBytes (s : State) (x y : RegIdx) (n : RowCount) (c : Fin 64) (r : Fin 32) :
    spriteHit (s.mem.readBytes s.i.toNat n.val) (drawCol s x) (drawTop s y) c r = spriteBit s x y n c r := by
  simp only [spriteHit, spriteBit, drawCol, drawTop, Memory.length_readBytes, Config.displayW, Config.displayH]
  by_cases hin : s.v[y].toNat % 32 ≤ r.val ∧ r.val < s.v[y].toNat % 32 + n.val
  · have hrow : r.val - s.v[y].toNat % 32 < (s.mem.readBytes s.i.toNat n.val).length := by
      rw [Memory.length_readBytes]
      omega
    rw [List.getD_eq_getElem _ _ hrow, Memory.getElem_readBytes]
  · rw [decide_eq_false (by omega)]
    rfl

/-- Drawing toggles the sprite's cells, each once (R181). -/
theorem drawn_toggled (x y : RegIdx) (n : RowCount) (s : State) :
    Canvas.Toggled { disp := s.disp, collision := false } (drawn x y n s) (spriteBit s x y n) :=
  (drawSprite_toggled _ (Nat.mod_lt _ (by decide)) _ _).congr (spriteHit_readBytes s x y n)

/-- The collision is reported exactly when some lit cell went off. -/
theorem drawn_collision_iff (x y : RegIdx) (n : RowCount) (s : State) :
    (drawn x y n s).collision = true ↔
      ∃ c r, s.disp.pixel c r = true ∧ (drawn x y n s).disp.pixel c r = false := by
  have htoggled := drawn_toggled x y n s
  simp only [htoggled.collision, htoggled.pixel, Bool.false_eq_true, false_or]
  refine exists_congr fun c => exists_congr fun r => ?_
  cases s.disp.pixel c r <;> simp

theorem exec_drw_of_inside {s : State} {n : RowCount} (x y : RegIdx) (h : n.val = 0 ∨ s.i.toNat + n.val ≤ 4096) :
    exec (.drw x y n) s =
      done true { s with disp := (drawn x y n s).disp, v := s.v.set 15 (flagByte (drawn x y n s).collision) } :=
  withRange_of_inside s _ h

/-- Settles O47: the check's two answers; inside memory the flag follows the cells that went off. -/
theorem drwXorsTheSpriteAndReportsCollision : Obligations.DrwXorsTheSpriteAndReportsCollision := by
  unfold Obligations.DrwXorsTheSpriteAndReportsCollision
  refine fun s x y n => ⟨fun hin => ?_, fun hn hout => withRange_of_outside s _ hn hout⟩
  refine displayOnly_of_done (exec_drw_of_inside x y hin) (keepsRegs_setV s 0xF _) fun t hd hv => ?_
  have hflag : t.v[(0xF : RegIdx)] = flagByte (drawn x y n s).collision := by
    rw [hv]; exact Vector.getElem_set_self (by decide)
  rw [hflag, hd, ← drawn_collision_iff]
  refine ⟨(drawn_toggled x y n s).pixel, fun h => ?_, fun h => ?_⟩
  · rw [h]; rfl
  · rw [Bool.not_eq_true] at h; rw [h]; rfl

theorem spriteBit_congr {s t : State} {x y : RegIdx} (hx : t.v[x] = s.v[x]) (hy : t.v[y] = s.v[y]) (hi : t.i = s.i)
    (hmem : KeepsMem s t) (n : RowCount) (c : Fin 64) (r : Fin 32) :
    spriteBit t x y n c r = spriteBit s x y n c r := by
  simp only [spriteBit, hx, hy, hi, hmem _]

/-- Settles O48: the second draw meets the same sprite at the same place, so it toggles the same cells again. -/
theorem drawingTwiceRestoresTheDisplay : Obligations.DrawingTwiceRestoresTheDisplay := by
  unfold Obligations.DrawingTwiceRestoresTheDisplay
  intro s x y n hx hy hin
  obtain ⟨t, ht, ⟨hfirst, -, -⟩, hregs, hi, -, -, -, hmem, -⟩ :=
    (drwXorsTheSpriteAndReportsCollision s x y n).1 (.inr hin)
  obtain ⟨u, hu, ⟨hsecond, hlit, hunlit⟩, -⟩ :=
    (drwXorsTheSpriteAndReportsCollision t x y n).1 (.inr (hi.symm ▸ hin))
  have hsame := spriteBit_congr (hregs x (by simpa using hx)) (hregs y (by simpa using hy)) hi hmem n
  have hrestored : ∀ c r, u.disp.pixel c r = s.disp.pixel c r := fun c r => by
    rw [hsecond, hfirst, hsame, Bool.xor_assoc, Bool.xor_self, Bool.xor_false]
  refine ⟨t, u, ht, hu, hrestored, ?_⟩
  have hswap : (∃ c r, t.disp.pixel c r = true ∧ u.disp.pixel c r = false) ↔
      ∃ c r, s.disp.pixel c r = false ∧ t.disp.pixel c r = true := by
    simp only [hrestored, and_comm]
  rw [← hswap]
  refine ⟨fun hflag => by_contra fun hnone => ?_, hlit⟩
  rw [hunlit hnone] at hflag
  exact absurd hflag (by decide)

/-- Settles O50: the two cases of `NEWKEY`; in both everything else is as before. -/
theorem ldKWaitsForANewKey : Obligations.LdKWaitsForANewKey := by
  unfold Obligations.LdKWaitsForANewKey
  intro s x
  have hexec : exec (.ldK x) s = done false (keyWait x s s.inputs.newKey) := rfl
  refine ⟨_, hexec, ?_⟩
  cases s.inputs.newKey with
  | none =>
    exact ⟨fun _ => ⟨rfl, prevAddr_toNat s.pc, fun _ _ => rfl⟩, nofun, rfl, ⟨rfl, rfl⟩, ⟨rfl, rfl⟩, fun _ => rfl,
      fun _ _ => rfl, rfl, ⟨rfl, rfl, rfl⟩, rfl⟩
  | some k =>
    refine ⟨nofun, fun j hj => ⟨?_, rfl, rfl, keepsRegs_setV s x _⟩, rfl, ⟨rfl, rfl⟩, ⟨rfl, rfl⟩, fun _ => rfl,
      fun _ _ => rfl, rfl, ⟨rfl, rfl, rfl⟩, rfl⟩
    cases hj
    exact (congrArg BitVec.toNat (Vector.getElem_set_self x.isLt)).trans (keyByte_toNat k)

end Sys2Proof.Machine
end
